-- ==== Sys2Proof/Word.lean ====
section
/-! DEFINITION. The word types of the model (R8, R20): the byte of the bus and of the storage. -/

namespace Sys2Proof

/-- One byte: an opcode, a parameter byte, a byte of storage or of an 8-bit register (R8, R20). -/
abbrev Byte := BitVec 8

end Sys2Proof
end

