-- ==== Sys2Proof/Config.lean ====
section
/-! DEFINITION. What one chip variant fixes (R5), the configuration record that holds the parameters of the spec (R7), and the
closed sets of names that the other files use. The VALUES that the spec takes for the parameters, and how a table of the
record is read, stand in Sys2Proof/Machine/Params.lean, where a later repair may mend their bodies. -/

namespace Sys2Proof

/-- The quirk "vendor addressing variant" of the part descriptor (R5). -/
inductive Variant where
  | generic   -- V_GENERIC
  | modeByte  -- V_MODEBYTE
  | nvcfg     -- V_NVCFG
  deriving DecidableEq, Repr

/-- A number of bus lines, 1, 2 or 4 (R26, R27). -/
inductive Lines where
  | one
  | two
  | four
  deriving DecidableEq, Repr

/-- The part descriptor `P` of R5: the static configuration of one chip variant. The set `P.erase_caps` is held as two
membership bits; an `extJedecId` of 0 means that it is absent. -/
structure Part where
  vendorId    : Byte
  deviceId    : Byte
  jedecId     : BitVec 24
  extJedecId  : BitVec 16
  pageSize    : Nat
  sectorSize  : Nat
  sectorCount : Nat
  er4k        : Bool
  er32k       : Bool
  qWr1        : Bool
  qEeprom     : Bool
  variant     : Variant
  deriving DecidableEq, Repr

/-- The capability that an erase needs (R225): a sub-sector size, or none. -/
inductive EraseCap where
  | er4k
  | er32k
  | always
  deriving DecidableEq, Repr

/-- The 47 opcodes of R105 by the spec's mnemonics, without operands. -/
inductive Op where
  | wrsr | pp | read | wrdi | rdsr | wren | fastRead | fastRead4 | pp4 | read4 | brrd | brwr
  | erase4k | erase4_4k | qpp | dor | dor4 | pp4_4 | erase32k | erase4_32k | bulkErase60 | wevcr
  | revcr | resetEnable | qor | qor4 | readFsr | wvcr | rvcr | rdid90 | resetMemory | jedecRead
  | dpp | aaiWp | wnvcr | rnvcr | en4b | dior | dior4 | extendAddrWrite | bulkEraseC7
  | extendAddrRead | eraseSector | erase4Sector | ex4b | qior | qior4
  deriving DecidableEq, Repr

/-- One number for each variant: the shape of `DIO_EXTRA` and `QIO_EXTRA` (R7). -/
structure PerVariant where
  generic  : Nat
  modeByte : Nat
  nvcfg    : Nat
  deriving DecidableEq, Repr

/-- What a row of the dummy table asks for: a number of units, or the field `vcfg[7:4]` (R111). -/
inductive DummyUnits where
  | fixed (n : Nat)
  | vcfgField
  deriving DecidableEq, Repr

/-- The parts that a row of the dummy table speaks of. -/
inductive PartPattern where
  | every
  | ofVariant (v : Variant)
  | exactly (p : Part)
  deriving DecidableEq, Repr

/-- A row of the table that holds `DUMMY_CYCLES` (R111): the opcode, the value of `vcfg` (`none` is every value), the parts and
the requirement. A function cannot stand in the state, a table can; on the finitely many arguments that a block has, a table
of such rows can be any function of the three (`dummyTable_represents` of Sys2Proof/Laws/Params.lean). -/
structure DummyRow where
  op    : Op
  vcfg  : Option Byte
  parts : PartPattern
  units : DummyUnits
  deriving DecidableEq, Repr

/-- `DUMMY_ROUND`, the rounding of the dummy rescale (R7, R250). -/
inductive Rounding where
  /-- The least whole number of units that covers the wait: the spec's choice (D23). -/
  | ceiling
  /-- The greatest whole number of units within the wait, which may be none. -/
  | floor
  /-- As `floor`, but at least one unit. -/
  | floorPositive
  deriving DecidableEq, Repr

/-- Where one derived bit comes from in the non-volatile word (R313). -/
inductive BitSource where
  | const (b : Bool)
  | copy (i : Nat)
  | negated (i : Nat)
  /-- Set when the bits `lo` to `hi` are all 1. -/
  | allOnes (lo hi : Nat)
  deriving DecidableEq, Repr

/-- `DERIVE`, the table of R313: the sources of the eight bits of the two registers, bit 0 first, of `S.a4b`, and of the
choice of the highest bank as `S.ear`. -/
structure DeriveTable where
  vcfg    : List BitSource
  evcfg   : List BitSource
  a4b     : BitSource
  topBank : BitSource
  deriving DecidableEq, Repr

/-- The configuration record: the parameters of R7 and of the lists "Parameters" of 92_eei_decisions.md and
93_implementation_defined.md, but for the part `P`. It is plain data; the state holds it (`State.config`), no event writes it,
and a claim about every state is a claim about every configuration. -/
structure Config where
  /-- `OPCODE_MAP` (R105). -/
  opcodeMap   : List (Byte × Op)
  /-- `PMAX`, the size of the parameter buffer in bytes (R7, R23). -/
  pmax        : Nat
  /-- `RMAX`, the size of the response buffer in bytes (R7, R24). -/
  rmax        : Nat
  /-- `BANK_MASK`, the bits of the bank register that extend a 3-byte address (R7, R35). -/
  bankMask    : Byte
  /-- `BANK_SIZE`, the span of a 3-byte address (R7). -/
  bankSize    : Nat
  /-- `ERASED`, the erased value (R7, R88): what a byte of storage reads as until something else is programmed. -/
  erased      : Byte
  /-- `NVCFG_INIT`, the non-volatile configuration word when the device is attached (R7, R36, R310). -/
  nvcfgInit   : BitVec 16
  /-- `DERIVE` (R313). -/
  derive      : DeriveTable
  /-- `DIO_EXTRA[v]` (R7, R103). -/
  dioExtra    : PerVariant
  /-- `QIO_EXTRA[v]` (R7, R103). -/
  qioExtra    : PerVariant
  /-- `DUMMY_CYCLES(op, vcfg, P)` (R7, R111). -/
  dummyCycles : List DummyRow
  /-- `DUMMY_ROUND` (R7, R250). -/
  dummyRound  : Rounding
  /-- `NO_RX`, the number a transport reads when the block produces no output unit (R7, R251). -/
  noRx        : Nat
  deriving DecidableEq, Repr

/-- What follows the opcode byte (R101). `aai` is AAI_WP's own format: `FA` when it begins, `F0` when it continues. -/
inductive Format where
  | f0 | fr | fd1 | fd2 | fa | fax | aai
  deriving DecidableEq, Repr

/-- The three things besides the byte that change how an opcode is decoded (R107), and the configuration. -/
structure DecodeMode where
  config  : Config
  a4b     : Bool
  aai     : Bool
  variant : Variant
  deriving DecidableEq, Repr

/-- An address field as it was collected: three bytes or four (R101, R102). -/
inductive Addr where
  | a3 (v : BitVec 24)
  | a4 (v : BitVec 32)
  deriving DecidableEq, Repr

end Sys2Proof
end

