-- ==== Sys2Proof/Machine/Params.lean ====
section
/-! DEFINITION. The values that the spec takes for its parameters (R7) and how the tables of the configuration are read; the
derived constants of R5, the well-formedness of a part descriptor (R6) and of a configuration. -/

namespace Sys2Proof

/-- The number of a `Lines` value (R26). -/
def Lines.toNat : Lines → Nat
  | .one  => 1
  | .two  => 2
  | .four => 4

/-- The line counts that exist: 1, 2 and 4 (R26, R250). -/
def Lines.ofNat? : Nat → Option Lines
  | 1 => some .one
  | 2 => some .two
  | 4 => some .four
  | _ => none

/-- `CAP = P.sector_size × P.sector_count`, the capacity in bytes (R5). -/
def Part.cap (p : Part) : Nat := p.sectorSize * p.sectorCount

/-- `CAPBITS = CAP × 8` (R5). -/
def Part.capBits (p : Part) : Nat := p.cap * 8

/-- `NPAGES = CAP / P.page_size` (R5). -/
def Part.npages (p : Part) : Nat := p.cap / p.pageSize

/-- `P.overwrite = P.q_wr1 or P.q_eeprom` (R5). -/
def Part.overwrite (p : Part) : Bool := p.qWr1 || p.qEeprom

/-- Whether the part advertises the erase size (R225); `ALWAYS` needs no capability. -/
def Part.advertises (p : Part) : EraseCap → Bool
  | .er4k   => p.er4k
  | .er32k  => p.er32k
  | .always => true

/-- A well-formed part descriptor (R6), its three size fields within their 32 bits (R5). -/
abbrev Part.Wf (p : Part) : Prop :=
  0 < p.pageSize ∧ 0 < p.sectorSize ∧ 0 < p.sectorCount ∧ p.cap ≤ 2 ^ 32 ∧ p.cap % p.pageSize = 0 ∧
    p.pageSize < 2 ^ 32 ∧ p.sectorSize < 2 ^ 32 ∧ p.sectorCount < 2 ^ 32

/-- What the reset derivation of R313 yields. -/
structure Derived where
  vcfg  : Byte
  evcfg : Byte
  a4b   : Bool
  ear   : Byte
  deriving DecidableEq, Repr

/-- One bit as a byte of value 0 or 1: `zext_8` of a flag (R8). -/
def bitByte (b : Bool) : Byte := if b then 1#8 else 0#8

/-! ### Reading the tables of the configuration -/

/-- The number for a variant. -/
def PerVariant.get (x : PerVariant) : Variant → Nat
  | .generic  => x.generic
  | .modeByte => x.modeByte
  | .nvcfg    => x.nvcfg

/-- Whether a row of the dummy table speaks of the part. -/
def PartPattern.covers : PartPattern → Part → Bool
  | .every, _ => true
  | .ofVariant v, p => decide (p.variant = v)
  | .exactly q, p => decide (p = q)

/-- Whether a row of the dummy table speaks of the arguments of `DUMMY_CYCLES`. -/
def DummyRow.applies (r : DummyRow) (op : Op) (vcfg : Byte) (p : Part) : Bool :=
  decide (r.op = op) && (r.vcfg == none || r.vcfg == some vcfg) && r.parts.covers p

/-- The units that a row asks for; `vcfg[7:4]` is the upper half of the register (R37). -/
def DummyUnits.count (u : DummyUnits) (vcfg : Byte) : Nat :=
  match u with
  | .fixed n => n
  | .vcfgField => (vcfg >>> 4).toNat

/-- `DUMMY_CYCLES(op, vcfg, P)` (R111): what the first row that applies asks for, and 0 where none does. -/
def Config.dummyUnits (c : Config) (op : Op) (vcfg : Byte) (p : Part) : Nat :=
  match c.dummyCycles.find? (fun r => r.applies op vcfg p) with
  | some r => r.units.count vcfg
  | none => 0

/-- The most units that a row can ask for. -/
def DummyUnits.most : DummyUnits → Nat
  | .fixed n => n
  | .vcfgField => 15

/-- The most units that a command can ask for under the configuration. -/
def Config.maxDummyUnits (c : Config) : Nat := (c.dummyCycles.map (fun r => r.units.most)).foldr max 0

/-- `DUMMY_ROUND` of `a / b` (R250); the ceiling is the least `n` with `n * b ≥ a` (R8). -/
def Rounding.divide (r : Rounding) (a b : Nat) : Nat :=
  match r with
  | .ceiling => (a + b - 1) / b
  | .floor => a / b
  | .floorPositive => max 1 (a / b)

/-- The value of a bit source for the non-volatile word `nv`. -/
def BitSource.value (nv : BitVec 16) : BitSource → Bool
  | .const b => b
  | .copy i => nv.getLsbD i
  | .negated i => !nv.getLsbD i
  | .allOnes lo hi => (List.range (hi + 1 - lo)).all (fun j => nv.getLsbD (lo + j))

/-- The byte of eight bits, bit 0 first. -/
def byteOfBits (bs : List Bool) : Byte := bs.foldr (fun b v => (v <<< 1) ||| bitByte b) 0#8

/-- `DeriveFromNvcfg` (R313): the registers that variant `V_NVCFG` derives from the non-volatile configuration word `nv` at
reset, for a part of capacity `cap`. -/
def Config.derived (c : Config) (cap : Nat) (nv : BitVec 16) : Derived where
  vcfg  := byteOfBits (c.derive.vcfg.map (·.value nv))
  evcfg := byteOfBits (c.derive.evcfg.map (·.value nv))
  a4b   := c.derive.a4b.value nv
  ear   := if c.derive.topBank.value nv then
             if cap < c.bankSize then 0x00#8 else BitVec.ofNat 8 (cap / c.bankSize - 1)
           else 0x00#8

/-- What the rules ask of a configuration: no byte has two opcodes and no opcode two bytes (R105); the longest collection fits
the parameter buffer (R23) and the longest response the response buffer (R24); a rescaled wait never ends inside the event
(R250); the dummy counters stay inside their 32 bits (R28). -/
abbrev Config.Wf (c : Config) : Prop :=
  (c.opcodeMap.map (·.1)).Nodup ∧ (c.opcodeMap.map (·.2)).Nodup ∧
    (∀ x ∈ [c.dioExtra, c.qioExtra], 4 + x.generic ≤ c.pmax ∧ 4 + x.modeByte ≤ c.pmax ∧ 4 + x.nvcfg ≤ c.pmax) ∧
    5 ≤ c.rmax ∧ c.dummyRound ≠ .floor ∧ 4 * c.maxDummyUnits < 2 ^ 32

/-! ### The values of the spec -/

/-- `OPCODE_MAP`: the complete map of R105, in its order. -/
def Config.specOpcodeMap : List (Byte × Op) :=
  [(0x01#8, .wrsr), (0x02#8, .pp), (0x03#8, .read), (0x04#8, .wrdi), (0x05#8, .rdsr), (0x06#8, .wren),
   (0x0B#8, .fastRead), (0x0C#8, .fastRead4), (0x12#8, .pp4), (0x13#8, .read4), (0x16#8, .brrd), (0x17#8, .brwr)] ++
  [(0x20#8, .erase4k), (0x21#8, .erase4_4k), (0x32#8, .qpp), (0x3B#8, .dor), (0x3C#8, .dor4), (0x3E#8, .pp4_4),
   (0x52#8, .erase32k), (0x5C#8, .erase4_32k), (0x60#8, .bulkErase60), (0x61#8, .wevcr), (0x65#8, .revcr),
   (0x66#8, .resetEnable), (0x6B#8, .qor), (0x6C#8, .qor4), (0x70#8, .readFsr)] ++
  [(0x81#8, .wvcr), (0x85#8, .rvcr), (0x90#8, .rdid90), (0x99#8, .resetMemory), (0x9F#8, .jedecRead), (0xA2#8, .dpp),
   (0xAD#8, .aaiWp), (0xB1#8, .wnvcr), (0xB5#8, .rnvcr), (0xB7#8, .en4b), (0xBB#8, .dior), (0xBC#8, .dior4)] ++
  [(0xC5#8, .extendAddrWrite), (0xC7#8, .bulkEraseC7), (0xC8#8, .extendAddrRead), (0xD8#8, .eraseSector),
   (0xDC#8, .erase4Sector), (0xE9#8, .ex4b), (0xEB#8, .qior), (0xEC#8, .qior4)]

/-- `DUMMY_CYCLES`, the default instance of R111: `vcfg[7:4]` on `V_NVCFG` and 8 on the other variants for six opcodes, 0 for
every other one. -/
def Config.specDummyCycles : List DummyRow :=
  [Op.fastRead, .fastRead4, .dor, .dor4, .qor, .qor4].flatMap (fun op =>
    [{ op := op, vcfg := none, parts := .ofVariant .nvcfg, units := .vcfgField },
     { op := op, vcfg := none, parts := .every, units := .fixed 8 }])

/-- `DERIVE`, the bit positions of R313. -/
def Config.specDerive : DeriveTable where
  vcfg    := [.const true, .const true, .const false, .allOnes 9 11, .copy 12, .copy 13, .copy 14, .copy 15]
  evcfg   := [.const true, .const true, .const true, .const true, .const true, .const false, .copy 2, .copy 3]
  a4b     := .negated 0
  topBank := .negated 1

/-- The configuration of the spec: the value column of R7, `OPCODE_MAP` and `DERIVE`. -/
def Config.spec : Config where
  opcodeMap   := Config.specOpcodeMap
  pmax        := 16
  rmax        := 16
  bankMask    := 0x7F#8
  bankSize    := 2 ^ 24
  erased      := 0xFF#8
  nvcfgInit   := 0x8FFF#16
  derive      := Config.specDerive
  dioExtra    := { generic := 2, modeByte := 1, nvcfg := 2 }
  qioExtra    := { generic := 5, modeByte := 3, nvcfg := 5 }
  dummyCycles := Config.specDummyCycles
  dummyRound  := .ceiling
  noRx        := 0

end Sys2Proof
end

