-- ==== Sys2Proof/Syntax.lean ====
section
/-! DEFINITION. The commands of R105 with their operands (R101, R104): one constructor for each row of the opcode table. -/

namespace Sys2Proof

/-- A complete command: the opcode (the constructor) and its parameter bytes as operands (R100, R101, R104). An address is
held as it was collected (`Addr`, or four bytes where the command always takes four); the mode/dummy bytes of the
dual and quad I/O reads are kept as a list, since their number is the variant's (R103). `aaiWp none` is the continue form of
AAI_WP, `aaiWp (some A)` the begin form (R215). -/
inductive Instr where
  | wrsr (db0 : Byte)
  | pp (a : Addr)
  | read (a : Addr)
  | wrdi
  | rdsr
  | wren
  | fastRead (a : Addr)
  | fastRead4 (a : BitVec 32)
  | pp4 (a : BitVec 32)
  | read4 (a : BitVec 32)
  | brrd
  | brwr (db0 : Byte)
  | erase4k (a : Addr)
  | erase4_4k (a : BitVec 32)
  | qpp (a : Addr)
  | dor (a : Addr)
  | dor4 (a : BitVec 32)
  | pp4_4 (a : BitVec 32)
  | erase32k (a : Addr)
  | erase4_32k (a : BitVec 32)
  | bulkErase60
  | wevcr (db0 : Byte)
  | revcr
  | resetEnable
  | qor (a : Addr)
  | qor4 (a : BitVec 32)
  | readFsr
  | wvcr (db0 : Byte)
  | rvcr
  | rdid90
  | resetMemory
  | jedecRead
  | dpp (a : Addr)
  | aaiWp (a : Option (BitVec 24))
  | wnvcr (value : BitVec 16)
  | rnvcr
  | en4b
  | dior (a : Addr) (mode : List Byte)
  | dior4 (a : BitVec 32) (mode : List Byte)
  | extendAddrWrite (db0 : Byte)
  | bulkEraseC7
  | extendAddrRead
  | eraseSector (a : Addr)
  | erase4Sector (a : BitVec 32)
  | ex4b
  | qior (a : Addr) (mode : List Byte)
  | qior4 (a : BitVec 32) (mode : List Byte)
  deriving DecidableEq, Repr

end Sys2Proof
end

