-- ==== Sys2Proof/Machine/Opcodes.lean ====
section
/-! DEFINITION. Reading the opcode map (R105), and the opcode of a command. -/

namespace Sys2Proof

/-- The opcode that a byte stands for; `none` for an unrecognized byte (R105, R106). -/
def opOfByte (c : Config) (b : Byte) : Option Op := (c.opcodeMap.find? (fun r => r.1 == b)).map (·.2)

/-- The byte of an opcode, if the map holds it (R105). -/
def byteOfOp (c : Config) (op : Op) : Option Byte := (c.opcodeMap.find? (fun r => decide (r.2 = op))).map (·.1)

/-- The opcode of a command. -/
def Instr.op : Instr → Op
  | .wrsr _ => .wrsr | .pp _ => .pp | .read _ => .read | .wrdi => .wrdi | .rdsr => .rdsr | .wren => .wren
  | .fastRead _ => .fastRead | .fastRead4 _ => .fastRead4 | .pp4 _ => .pp4 | .read4 _ => .read4 | .brrd => .brrd
  | .brwr _ => .brwr | .erase4k _ => .erase4k | .erase4_4k _ => .erase4_4k | .qpp _ => .qpp | .dor _ => .dor
  | .dor4 _ => .dor4 | .pp4_4 _ => .pp4_4 | .erase32k _ => .erase32k | .erase4_32k _ => .erase4_32k
  | .bulkErase60 => .bulkErase60 | .wevcr _ => .wevcr | .revcr => .revcr | .resetEnable => .resetEnable
  | .qor _ => .qor | .qor4 _ => .qor4 | .readFsr => .readFsr | .wvcr _ => .wvcr | .rvcr => .rvcr | .rdid90 => .rdid90
  | .resetMemory => .resetMemory | .jedecRead => .jedecRead | .dpp _ => .dpp | .aaiWp _ => .aaiWp | .wnvcr _ => .wnvcr
  | .rnvcr => .rnvcr | .en4b => .en4b | .dior _ _ => .dior | .dior4 _ _ => .dior4
  | .extendAddrWrite _ => .extendAddrWrite | .bulkEraseC7 => .bulkEraseC7 | .extendAddrRead => .extendAddrRead
  | .eraseSector _ => .eraseSector | .erase4Sector _ => .erase4Sector | .ex4b => .ex4b | .qior _ _ => .qior
  | .qior4 _ _ => .qior4

end Sys2Proof
end

