-- ==== Sys2Proof/Machine/State.lean ====
section
/-! DEFINITION. The state of the block (R20) as plain data, what surrounds it (the part descriptor, the events still to be
handled, the outputs of the last event), the outcomes that stop a step, and the state right after `PowerOn`. -/

namespace Sys2Proof.Machine

/-- Storage as (address, byte) pairs in one canonical form: addresses strictly rising, no entry equal to the erased value of
the configuration, which is what an unlisted address reads as (R40, R311). -/
abbrev Memory := List Host.Cell

/-- The six values of the sequencer (R21). -/
inductive Seq where
  | idle
  | pageProgram
  | read
  | collectingParams
  | streamingResponse
  | dummyWait
  deriving DecidableEq, Repr

/-- The fields of `S` (R20). `plen` is `pbuf.length` and `rlen` is `rbuf.length` (R45). The cursor and the two counters are
naturals (R88); that they stay inside their 64 and 32 bits follows from `Device.Wf`. -/
structure Device where
  seq         : Seq
  cmd         : Byte
  pbuf        : List Byte
  need        : Nat
  rbuf        : List Byte
  rpos        : Nat
  rcyclic     : Bool
  cur         : Nat
  lines       : Lines
  widthHint   : Lines
  dummyCount  : Nat
  dummyTarget : Nat
  wel         : Bool
  rstEn       : Bool
  a4b         : Bool
  aai         : Bool
  ear         : Byte
  nvcfg       : BitVec 16
  vcfg        : Byte
  evcfg       : Byte
  mem         : Memory
  dirty       : Option Nat
  deriving DecidableEq, Repr

/-- What the write-enable latch kept from happening (R280, W2): an erase, recorded by `S.cmd`, or a program unit, recorded by
its byte address. -/
inductive Blocked where
  | erase (cmd : Byte)
  | program (address : Nat)
  deriving DecidableEq, Repr

/-- The four protocol warnings (R280). A warning never changes control flow. -/
inductive Warning where
  /-- W1 (R281). -/
  | unknownOpcode (b : Byte)
  /-- W2 (R282). -/
  | writeDisabled (what : Blocked)
  /-- W3 (R283). -/
  | eraseUnsupported (cmd : Byte)
  /-- W4 (R284): the byte address, the old byte and the unit. -/
  | zeroToOne (address : Nat) (old unit : Byte)
  deriving DecidableEq, Repr

/-- One record toward the backing sink (R84): `length` bytes at `offset`. The bytes are held as storage is, as the listed cells
of that range; every other byte of the range is the erased value. -/
structure SinkWrite where
  offset : Nat
  length : Nat
  cells  : Memory
  deriving DecidableEq, Repr

/-- What `Snapshot` returns (R46): the whole of `S`, with the part descriptor of the block it was taken from. -/
structure Blob where
  part : Part
  dev  : Device
  deriving DecidableEq, Repr

/-- The outputs of one event (R9): the unit `rx` (`none` is `NONE`), the warnings and the sink records in the order they
were raised and emitted, and the blob of a `Snapshot` (R46). -/
structure Output where
  rx    : Option Byte
  warns : List Warning
  sinks : List SinkWrite
  blob  : Option Blob
  deriving DecidableEq, Repr

/-- The outputs of an event that yields none (R251). -/
def Output.empty : Output := { rx := none, warns := [], sinks := [], blob := none }

/-- The input events of R9, with the arguments that the transport gives them. -/
inductive Event where
  | powerOn (part : Part) (seed : Option Memory)
  | select (asserted : Bool)
  | setBusWidth (lines : Nat)
  | transfer (tx w : Nat)
  | snapshot
  | restore (blob : Blob)
  deriving DecidableEq, Repr

/-- The state of the model: the configuration (R7, written by no event), the part descriptor `P` (configuration, R43: only
`PowerOn` sets it), the block's own state `S`
(R20), the events that the transport has sent and the block has not handled, oldest first (R9), and the outputs of the last
step. -/
structure State where
  config : Config
  part   : Part
  dev    : Device
  inputs : List Event
  out    : Output
  deriving DecidableEq, Repr

/-- Why a step stops with a fault. The spec names no fault (R290). -/
inductive Fault where
  /-- A data unit would touch a byte at or beyond the capacity, an address that does not exist (R10, R40). Raised by
  `readUnit` and `programUnit`. SAFE: no state that meets `Device.Wf` raises it. -/
  | outsideStorage (address : Nat)
  deriving DecidableEq, Repr

/-- Why a step has no next state: the event is outside the input domain of the spec (R10, 93_implementation_defined.md). -/
inductive Refusal where
  /-- An instruction without a meaning; raised by no arm of `exec`. SAFE. -/
  | notModelled (mnemonic : String)
  /-- U1: a `Transfer` with `w < 8` in a byte-granular state (R76). Raised by `transfer`. SAFE. -/
  | narrowUnit
  /-- U2: a data unit that is not aligned to its own width (R75). Raised by `transfer`. SAFE. -/
  | misalignedUnit
  /-- U3: a `Transfer` whose width is not 1, 2, 4 or 8 or whose `tx` does not fit it (R9). Raised by `transfer`. SAFE. -/
  | badUnit
  /-- U4: a `SetBusWidth` of a number other than 1, 2 or 4 (R250). Raised by `setBusWidth`. SAFE. -/
  | badBusWidth
  /-- U5: a `PowerOn` with a descriptor that is not well-formed, the error `BAD_DESCRIPTOR` (R287). Raised by `powerOn`.
  SAFE. -/
  | badDescriptor
  /-- U6: a `Restore` of a blob that no `Snapshot` of a block with the same part returns (R46). Raised by `restore`. SAFE. -/
  | badBlob
  /-- A state that violates R42, which is outside the domain as a blob that does so is (R46): the collector is complete and
  its bytes are no command, or the response cursor is past the response. Raised by `collect`, `decodeOpcode` and
  `streamUnit`. SAFE: no state that meets `Device.Wf` raises it. -/
  | brokenState
  deriving DecidableEq, Repr

/-- The part of the reset state: part PA of 95_test_vectors.md. DESIGN CHOICE, notes/assumptions/1.md: the spec takes the part
as an argument of `PowerOn` and names no value. -/
def resetPart : Part where
  vendorId    := 0xEF#8
  deviceId    := 0x13#8
  jedecId     := 0xEF4014#24
  extJedecId  := 0x0000#16
  pageSize    := 256
  sectorSize  := 0x10000
  sectorCount := 16
  er4k        := true
  er32k       := false
  qWr1        := false
  qEeprom     := false
  variant     := .generic

/-- The block with the configuration of the spec right after `PowerOn(resetPart, no seed)`: the column "after `PowerOn`" of R44, with no event waiting and no
output. -/
def State.reset : State where
  config := Config.spec
  part := resetPart
  dev  :=
    { seq := .idle, cmd := 0x00#8, pbuf := [], need := 0, rbuf := [], rpos := 0, rcyclic := false, cur := 0
      lines := .one, widthHint := .one, dummyCount := 0, dummyTarget := 0
      wel := false, rstEn := false, a4b := false, aai := false
      ear := 0x00#8, nvcfg := Config.spec.nvcfgInit, vcfg := 0x00#8, evcfg := 0x00#8, mem := [], dirty := none }
  inputs := []
  out    := Output.empty

end Sys2Proof.Machine
end

