-- ==== Sys2Proof/Machine/Ops.lean ====
section
/-! DEFINITION. The named operations over memory, registers, latches, warnings and sink records. The block has no exception
entry and no return (R290, R291); what stands in their place is `State.raise`, which appends a warning and goes on. -/

namespace Sys2Proof.Machine

/-! ### Storage (R40, R70) -/

/-- `MemRead(a, 1)` (R10): the byte at an address, where `e` is the erased value. -/
def Memory.read (e : Byte) : Memory → Nat → Byte
  | [], _ => e
  | (b, v) :: r, a => if a = b then v else Memory.read e r a

/-- `MemWrite(a, 1, v)` (R10), keeping the canonical form. -/
def Memory.write (e : Byte) : Memory → Nat → Byte → Memory
  | [], a, v => if v = e then [] else [(a, v)]
  | (b, x) :: r, a, v =>
    if a < b then (if v = e then (b, x) :: r else (a, v) :: (b, x) :: r)
    else if a = b then (if v = e then r else (b, v) :: r)
    else (b, x) :: Memory.write e r a v

/-- The bytes from `lo` up to but not at `hi` set to the erased value (R225). -/
def Memory.erase (m : Memory) (lo hi : Nat) : Memory := m.filter (fun c => !(decide (lo ≤ c.1) && decide (c.1 < hi)))

/-- The listed cells from `lo` up to but not at `hi`. -/
def Memory.slice (m : Memory) (lo hi : Nat) : Memory := m.filter (fun c => decide (lo ≤ c.1) && decide (c.1 < hi))

/-- The storage of `cap` bytes that a seed gives (R311): every byte below `cap` as the seed reads, in the canonical form. -/
def Memory.ofSeed (e : Byte) (cap : Nat) (seed : Memory) : Memory :=
  (seed.filter (fun c => decide (c.1 < cap))).foldr (fun c m => Memory.write e m c.1 c.2) []

/-- The canonical form of storage: addresses strictly rising, no entry equal to the erased value. -/
abbrev Memory.Wf (e : Byte) (m : Memory) : Prop := m.Pairwise (fun x y => x.1 < y.1) ∧ ∀ c ∈ m, c.2 ≠ e

/-- `MemRead(a, 1)` (R10) of the block. -/
abbrev State.memRead (s : State) (a : Nat) : Byte := Memory.read s.config.erased s.dev.mem a

/-! ### Single fields -/

/-- `state <- X` (R10). -/
def State.setSeq (s : State) (x : Seq) : State := { s with dev := { s.dev with seq := x } }

/-- `S.cur <- x` (R25). -/
def State.setCur (s : State) (x : Nat) : State := { s with dev := { s.dev with cur := x } }

/-- `S.wel <- x` (R29). -/
def State.setWel (s : State) (x : Bool) : State := { s with dev := { s.dev with wel := x } }

/-- `S.rst_en <- x` (R30). -/
def State.setRstEn (s : State) (x : Bool) : State := { s with dev := { s.dev with rstEn := x } }

/-- `S.a4b <- x` (R31). -/
def State.setA4b (s : State) (x : Bool) : State := { s with dev := { s.dev with a4b := x } }

/-- `S.aai <- x` (R32). -/
def State.setAai (s : State) (x : Bool) : State := { s with dev := { s.dev with aai := x } }

/-- `S.ear <- x` (R35): all eight bits are stored. -/
def State.setEar (s : State) (x : Byte) : State := { s with dev := { s.dev with ear := x } }

/-- `S.nvcfg <- x` (R36): all sixteen bits are stored. -/
def State.setNvcfg (s : State) (x : BitVec 16) : State := { s with dev := { s.dev with nvcfg := x } }

/-- `S.vcfg <- x` (R37): all eight bits are stored. -/
def State.setVcfg (s : State) (x : Byte) : State := { s with dev := { s.dev with vcfg := x } }

/-- `S.evcfg <- x` (R38): all eight bits are stored. -/
def State.setEvcfg (s : State) (x : Byte) : State := { s with dev := { s.dev with evcfg := x } }

/-- `S.mem <- x` (R40). -/
def State.setMem (s : State) (x : Memory) : State := { s with dev := { s.dev with mem := x } }

/-- `S.dirty <- x` (R41). -/
def State.setDirty (s : State) (x : Option Nat) : State := { s with dev := { s.dev with dirty := x } }

/-- The dummy counter and its target (R28). -/
def State.setDummy (s : State) (count target : Nat) : State :=
  { s with dev := { s.dev with dummyCount := count, dummyTarget := target } }

/-- The whole of `S` replaced (R46, R310). -/
def State.setDev (s : State) (d : Device) : State := { s with dev := d }

/-- The part descriptor replaced, as only `PowerOn` does (R5, R310). -/
def State.setPart (s : State) (p : Part) : State := { s with part := p }

/-! ### Outputs -/

/-- `rx <- v` (R9). -/
def State.setRx (s : State) (v : Byte) : State := { s with out := { s.out with rx := some v } }

/-- `raise Warn.X(info)` (R10): the warning is appended and nothing else happens. -/
def State.raise (s : State) (w : Warning) : State := { s with out := { s.out with warns := s.out.warns ++ [w] } }

/-- The record of the `n` bytes from `off` as storage holds them now (R84). -/
def sinkRecord (m : Memory) (off n : Nat) : SinkWrite := { offset := off, length := n, cells := m.slice off (off + n) }

/-- `emit SinkWrite(off, n)` (R10, R84). -/
def State.emit (s : State) (off n : Nat) : State :=
  { s with out := { s.out with sinks := s.out.sinks ++ [sinkRecord s.dev.mem off n] } }

/-- The record that writes back page `q` (R83). -/
def State.emitPage (s : State) (q : Nat) : State := s.emit (q * s.part.pageSize) s.part.pageSize

/-- The number that a transport which insists on one reads for the last event (R251). `NO_RX` is a field of the configuration,
so no claim about every state rests on its value. -/
def State.rxNumber (s : State) : Nat :=
  match s.out.rx with
  | some v => v.toNat
  | none => s.config.noRx

/-! ### Dirty page (R83) -/

/-- `MarkDirty(p)` (R83): the page left behind is written back first. -/
def State.markDirty (s : State) (p : Nat) : State :=
  match s.dev.dirty with
  | some q => if q = p then s.setDirty (some p) else (s.emitPage q).setDirty (some p)
  | none => s.setDirty (some p)

/-- `FlushDirty()` (R83). -/
def State.flushDirty (s : State) : State :=
  match s.dev.dirty with
  | some q => (s.emitPage q).setDirty none
  | none => s

/-! ### The decoder's and the collector's own writes (R131, R132) -/

/-- The clearing of the reset-enable latch by an opcode byte other than RESET_MEMORY's (R30, R131). -/
def State.clearResetEnable (s : State) (b : Byte) : State :=
  if opOfByte s.config b = some .resetMemory then s else s.setRstEn false

/-- `S.cmd <- op` and `S.width_hint <- Hint(op)` (R131). -/
def State.beginCommand (s : State) (b : Byte) (hint : Lines) : State :=
  { s with dev := { s.dev with cmd := b, widthHint := hint } }

/-- `S.need <- need; S.plen <- 0; S.state <- COLLECTING_PARAMS` (R131). -/
def State.startCollect (s : State) (need : Nat) : State :=
  { s with dev := { s.dev with need := need, pbuf := [], seq := .collectingParams } }

/-- `S.pbuf[S.plen] <- b; S.plen <- S.plen + 1` (R132). -/
def State.pushParam (s : State) (b : Byte) : State := { s with dev := { s.dev with pbuf := s.dev.pbuf ++ [b] } }

/-- `S.plen <- 0; S.need <- 0` (R132). -/
def State.clearParams (s : State) : State := { s with dev := { s.dev with pbuf := [], need := 0 } }

/-! ### Shared endings of the commands -/

/-- `LoadResponse(bytes, cyclic)` (R135). -/
def State.loadResponse (s : State) (bytes : List Byte) (cyclic : Bool) : State :=
  { s with dev := { s.dev with rbuf := bytes, rpos := 0, rcyclic := cyclic, seq := .streamingResponse } }

/-- `EnterRead(op)` (R134), with the requirement `n` of the opcode. -/
def State.enterReadAfter (s : State) (n : Nat) : State :=
  if 0 < n then (s.setDummy 0 n).setSeq .dummyWait else s.setSeq .read

/-- `EnterRead(op)` (R134). -/
def State.enterRead (s : State) (op : Op) : State := s.enterReadAfter (s.config.dummyUnits op s.dev.vcfg s.part)

/-- `ConfigWrite(reg, value)` (R175), with the register's write as an argument. -/
def State.configWrite (s : State) (write : State → State) : State := (if s.dev.wel then write s else s).setSeq .idle

/-- The whole range an erase of `len` bytes at target `t` covers (R225): aligned down to its size, clipped at the capacity. -/
def eraseRange (p : Part) (t len : Nat) : Nat × Nat := (t - t % len, min (t - t % len + len) p.cap)

/-- W3 when the part does not advertise the size (R225, R283). -/
def State.warnUnsupported (s : State) (cap : EraseCap) : State :=
  if s.part.advertises cap then s else s.raise (.eraseUnsupported s.dev.cmd)

/-- The bytes from `r.1` up to but not at `r.2` erased, and their sink record (R225). -/
def State.eraseBytes (s : State) (r : Nat × Nat) : State := (s.setMem (s.dev.mem.erase r.1 r.2)).emit r.1 (r.2 - r.1)

/-- `Erase(len, cap)` (R225) with its byte target `t`. The write-enable latch is tested first. -/
def State.eraseAt (s : State) (t len : Nat) (cap : EraseCap) : State :=
  if s.dev.wel then ((s.setSeq .idle).warnUnsupported cap).eraseBytes (eraseRange s.part t len)
  else (s.setSeq .idle).raise (.writeDisabled (.erase s.dev.cmd))

/-- `Erase(len, cap)` (R225) at the byte that the cursor holds. -/
def State.eraseHere (s : State) (len : Nat) (cap : EraseCap) : State := s.eraseAt (s.dev.cur / 8) len cap

/-! ### Reset (R312, R313) -/

/-- The registers that a reset leaves (R312, R313): cleared, and for variant `V_NVCFG` derived. -/
def derivedAtReset (c : Config) (p : Part) (nv : BitVec 16) : Derived :=
  match p.variant with
  | .nvcfg    => c.derived p.cap nv
  | .generic  => { vcfg := 0x00#8, evcfg := 0x00#8, a4b := false, ear := 0x00#8 }
  | .modeByte => { vcfg := 0x00#8, evcfg := 0x00#8, a4b := false, ear := 0x00#8 }

/-- `ResetRegisters()` (R312). Storage, the non-volatile word, the bus width and the dirty page are kept. -/
def State.resetRegisters (s : State) : State :=
  let r := derivedAtReset s.config s.part s.dev.nvcfg
  { s with dev :=
    { s.dev with
      seq := .idle, cmd := 0x00#8, pbuf := [], need := 0, rbuf := [], rpos := 0, rcyclic := false, cur := 0
      widthHint := .one, dummyCount := 0, dummyTarget := 0
      wel := false, rstEn := false, a4b := r.a4b, aai := false
      ear := r.ear, vcfg := r.vcfg, evcfg := r.evcfg } }

/-! ### Data units (R74, R245) -/

/-- The mask of a unit of `w` bits: `2^w − 1` as a byte (R245). -/
def unitMask (w : Nat) : Byte := BitVec.ofNat 8 (2 ^ w - 1)

/-- The `w` bits of a byte at bit offset `o` from the most significant bit (R74). -/
def unitAt (v : Byte) (o w : Nat) : Byte := (v >>> (8 - o - w)) &&& unitMask w

/-- A byte with its `w` bits at offset `o` replaced by `u`, the other bits kept (R245). -/
def withUnit (v : Byte) (o w : Nat) (u : Byte) : Byte := (v &&& ~~~(unitMask w <<< (8 - o - w))) ||| (u <<< (8 - o - w))

/-- `S.cur <- (S.cur + w) mod CAPBITS` (R88). -/
def State.advance (s : State) (w : Nat) : State := s.setCur ((s.dev.cur + w) % s.part.capBits)

end Sys2Proof.Machine
end

