-- ==== Sys2Proof/Machine/Flags.lean ====
section
/-! DEFINITION. The block has no arithmetic flags. Its condition bits are the four latches (R29 to R32), and two status
registers composed from them on read (R33, R34). -/

namespace Sys2Proof.Machine

/-- SR, composed on read (R33): WEL in bit 1, every other bit 0. -/
def Device.sr (d : Device) : Byte := bitByte d.wel <<< 1

/-- FSR, composed on read (R34): READY in bit 7, ADDR4 in bit 0, every other bit 0. -/
def Device.fsr (d : Device) : Byte := 0x80#8 ||| bitByte d.a4b

/-- The decode mode of the block (R107). -/
def State.mode (s : State) : DecodeMode := { config := s.config, a4b := s.dev.a4b, aai := s.dev.aai, variant := s.part.variant }

end Sys2Proof.Machine
end

