-- ==== Sys2Proof/Machine/Operands.lean ====
section
/-! DEFINITION. The operand forms of R104: the address operand of the formats `FA` and `FAX`. The data operands of `FD1` and
`FD2` are assembled by the decoder and need no operation of their own. -/

namespace Sys2Proof.Machine

/-- `A` of R71: the address as a number. -/
def addrNat : Addr → Nat
  | .a3 v => v.toNat
  | .a4 v => v.toNat

/-- What the bank register adds to an address (R80): `(S.ear & BANK_MASK) × BANK_SIZE` for three bytes, nothing for four. (The
large factor stands first: Lean's kernel recurses on the second one.) -/
def bankOffset (c : Config) (ear : Byte) : Addr → Nat
  | .a3 _ => c.bankSize * (ear &&& c.bankMask).toNat
  | .a4 _ => 0

/-- The target byte address `T = A' mod CAP` (R79, R80, R133). -/
def targetOf (c : Config) (p : Part) (ear : Byte) (a : Addr) : Nat := (addrNat a + bankOffset c ear a) % p.cap

/-- The target byte address of an address operand in a state: `S.ear` is read now, not at decode (R133). -/
def State.target (s : State) (a : Addr) : Nat := targetOf s.config s.part s.dev.ear a

/-- `ComputeTarget` (R133): the cursor at the first bit of the target byte. -/
def State.computeTarget (s : State) (a : Addr) : State := s.setCur (s.target a * 8)

end Sys2Proof.Machine
end

