-- ==== Sys2Proof/Machine/Erase.lean ====
section
/-! DEFINITION. The erase commands (46_erase_commands.md, R225 to R233). An address erase runs when its last address byte has
arrived, a bulk erase inside the step of its opcode. -/

namespace Sys2Proof.Machine

/-- The common action of the address erases: `ComputeTarget`, then `Erase` (R133, R225). -/
def State.eraseCommand (s : State) (a : Addr) (len : Nat) (cap : EraseCap) : State := (s.computeTarget a).eraseHere len cap

/-- ERASE_4K (R226). -/
def execErase4k (a : Addr) (s : State) : Host.Outcome State Fault Refusal :=
  .next (s.eraseCommand a 4096 .er4k)

/-- ERASE4_4K (R227). -/
def execErase4_4k (a : BitVec 32) (s : State) : Host.Outcome State Fault Refusal :=
  .next (s.eraseCommand (.a4 a) 4096 .er4k)

/-- ERASE_32K (R228). -/
def execErase32k (a : Addr) (s : State) : Host.Outcome State Fault Refusal :=
  .next (s.eraseCommand a 32768 .er32k)

/-- ERASE4_32K (R229). -/
def execErase4_32k (a : BitVec 32) (s : State) : Host.Outcome State Fault Refusal :=
  .next (s.eraseCommand (.a4 a) 32768 .er32k)

/-- ERASE_SECTOR (R230). -/
def execEraseSector (a : Addr) (s : State) : Host.Outcome State Fault Refusal :=
  .next (s.eraseCommand a s.part.sectorSize .always)

/-- ERASE4_SECTOR (R231). -/
def execErase4Sector (a : BitVec 32) (s : State) : Host.Outcome State Fault Refusal :=
  .next (s.eraseCommand (.a4 a) s.part.sectorSize .always)

/-- BULK_ERASE_C7 (R232): `Erase(CAP, ALWAYS)` with the target taken as 0; the cursor is neither read nor written. -/
def execBulkEraseC7 (s : State) : Host.Outcome State Fault Refusal := .next (s.eraseAt 0 s.part.cap .always)

/-- BULK_ERASE_60 (R233): `Erase(CAP, ALWAYS)` with the target taken as 0; the cursor is neither read nor written. -/
def execBulkErase60 (s : State) : Host.Outcome State Fault Refusal := .next (s.eraseAt 0 s.part.cap .always)

end Sys2Proof.Machine
end

