-- ==== Sys2Proof/Machine/Latch.lean ====
section
/-! DEFINITION. The latch and reset commands (41_latch_commands.md, R150 to R155). Each runs inside the step of its opcode,
after the decoder's own writes (R131). -/

namespace Sys2Proof.Machine

/-- WREN (R150). -/
def execWren (s : State) : Host.Outcome State Fault Refusal := .next ((s.setWel true).setSeq .idle)

/-- WRDI (R151): it also ends an auto-address-increment sequence. -/
def execWrdi (s : State) : Host.Outcome State Fault Refusal := .next (((s.setWel false).setAai false).setSeq .idle)

/-- RESET_ENABLE (R152). -/
def execResetEnable (s : State) : Host.Outcome State Fault Refusal := .next ((s.setRstEn true).setSeq .idle)

/-- RESET_MEMORY (R153): honored only when the reset-enable latch is set. -/
def execResetMemory (s : State) : Host.Outcome State Fault Refusal :=
  .next (if s.dev.rstEn then s.resetRegisters else s.setSeq .idle)

/-- EN4B (R154). -/
def execEn4b (s : State) : Host.Outcome State Fault Refusal := .next ((s.setA4b true).setSeq .idle)

/-- EX4B (R155). -/
def execEx4b (s : State) : Host.Outcome State Fault Refusal := .next ((s.setA4b false).setSeq .idle)

end Sys2Proof.Machine
end

