-- ==== Sys2Proof/Machine/Program.lean ====
section
/-! DEFINITION. The program commands (45_program_commands.md, R210 to R215). The command only moves the cursor and enters
PAGE_PROGRAM; the bytes are written by the data units (R245), which test the write-enable latch. -/

namespace Sys2Proof.Machine

/-- The common action of the program commands: `ComputeTarget`, then PAGE_PROGRAM (R133, 45_program_commands.md). -/
def State.programCommand (s : State) (a : Addr) : State := (s.computeTarget a).setSeq .pageProgram

/-- PP (R210). -/
def execPp (a : Addr) (s : State) : Host.Outcome State Fault Refusal := .next (s.programCommand a)

/-- PP4 (R211). -/
def execPp4 (a : BitVec 32) (s : State) : Host.Outcome State Fault Refusal := .next (s.programCommand (.a4 a))

/-- DPP (R212). -/
def execDpp (a : Addr) (s : State) : Host.Outcome State Fault Refusal := .next (s.programCommand a)

/-- QPP (R213). -/
def execQpp (a : Addr) (s : State) : Host.Outcome State Fault Refusal := .next (s.programCommand a)

/-- PP4_4 (R214). -/
def execPp4_4 (a : BitVec 32) (s : State) : Host.Outcome State Fault Refusal := .next (s.programCommand (.a4 a))

/-- AAI_WP (R215): with an address it begins a sequence and sets the in-progress latch; without one it continues at the cursor
that the previous frame left. -/
def execAaiWp (a : Option (BitVec 24)) (s : State) : Host.Outcome State Fault Refusal :=
  match a with
  | some v => .next (((s.computeTarget (.a3 v)).setAai true).setSeq .pageProgram)
  | none   => .next (s.setSeq .pageProgram)

end Sys2Proof.Machine
end

