-- ==== Sys2Proof/Machine/Read.lean ====
section
/-! DEFINITION. The read commands (44_read_commands.md, R190 to R201). Each runs when its last parameter byte has arrived; the
mode/dummy bytes of the dual and quad I/O reads have no effect (R101). -/

namespace Sys2Proof.Machine

/-- The common action of the twelve reads: `ComputeTarget`, then `EnterRead` (R133, R134). -/
def State.readCommand (s : State) (op : Op) (a : Addr) : State := (s.computeTarget a).enterRead op

/-- READ (R190). -/
def execRead (a : Addr) (s : State) : Host.Outcome State Fault Refusal := .next (s.readCommand .read a)

/-- READ4 (R191). -/
def execRead4 (a : BitVec 32) (s : State) : Host.Outcome State Fault Refusal := .next (s.readCommand .read4 (.a4 a))

/-- FAST_READ (R192). -/
def execFastRead (a : Addr) (s : State) : Host.Outcome State Fault Refusal := .next (s.readCommand .fastRead a)

/-- FAST_READ4 (R193). -/
def execFastRead4 (a : BitVec 32) (s : State) : Host.Outcome State Fault Refusal := .next (s.readCommand .fastRead4 (.a4 a))

/-- DOR (R194). -/
def execDor (a : Addr) (s : State) : Host.Outcome State Fault Refusal := .next (s.readCommand .dor a)

/-- DOR4 (R195). -/
def execDor4 (a : BitVec 32) (s : State) : Host.Outcome State Fault Refusal := .next (s.readCommand .dor4 (.a4 a))

/-- QOR (R196). -/
def execQor (a : Addr) (s : State) : Host.Outcome State Fault Refusal := .next (s.readCommand .qor a)

/-- QOR4 (R197). -/
def execQor4 (a : BitVec 32) (s : State) : Host.Outcome State Fault Refusal := .next (s.readCommand .qor4 (.a4 a))

/-- DIOR (R198). -/
def execDior (a : Addr) (_mode : List Byte) (s : State) : Host.Outcome State Fault Refusal := .next (s.readCommand .dior a)

/-- DIOR4 (R199). -/
def execDior4 (a : BitVec 32) (_mode : List Byte) (s : State) : Host.Outcome State Fault Refusal := .next (s.readCommand .dior4 (.a4 a))

/-- QIOR (R200). -/
def execQior (a : Addr) (_mode : List Byte) (s : State) : Host.Outcome State Fault Refusal := .next (s.readCommand .qior a)

/-- QIOR4 (R201). -/
def execQior4 (a : BitVec 32) (_mode : List Byte) (s : State) : Host.Outcome State Fault Refusal := .next (s.readCommand .qior4 (.a4 a))

end Sys2Proof.Machine
end

