-- ==== Sys2Proof/WellFormed.lean ====
section
/-! DEFINITION. Which commands the bus can carry in a given decode mode (R102, R103, R107, R215). -/

namespace Sys2Proof

/-- An address field has the length that the mode asks of a command without the 4-byte suffix (R102). -/
def Addr.fits (m : DecodeMode) : Addr → Bool
  | .a3 _ => !m.a4b
  | .a4 _ => m.a4b

/-- The operands have the form that the mode asks for: an address the length of R102, the mode/dummy bytes the number of R103,
and AAI_WP the form that the in-progress latch selects (R215). -/
def Instr.formed (m : DecodeMode) : Instr → Bool
  | .read a | .fastRead a | .dor a | .qor a | .pp a | .dpp a | .qpp a => a.fits m
  | .erase4k a | .erase32k a | .eraseSector a => a.fits m
  | .dior a x  => a.fits m && decide (x.length = m.config.dioExtra.get m.variant)
  | .qior a x  => a.fits m && decide (x.length = m.config.qioExtra.get m.variant)
  | .dior4 _ x => decide (x.length = m.config.dioExtra.get m.variant)
  | .qior4 _ x => decide (x.length = m.config.qioExtra.get m.variant)
  | .aaiWp a   => a.isNone == m.aai
  | .read4 _ | .fastRead4 _ | .dor4 _ | .qor4 _ | .pp4 _ | .pp4_4 _ => true
  | .erase4_4k _ | .erase4_32k _ | .erase4Sector _ => true
  | .wrsr _ | .wnvcr _ | .wvcr _ | .wevcr _ | .extendAddrWrite _ | .brwr _ => true
  | .wren | .wrdi | .resetEnable | .resetMemory | .en4b | .ex4b => true
  | .rdsr | .readFsr | .brrd | .extendAddrRead | .jedecRead | .rdid90 | .rnvcr | .rvcr | .revcr => true
  | .bulkEraseC7 | .bulkErase60 => true

/-- The command can be sent in the mode: the map holds its opcode (R105), and its operands have the form of the mode. -/
def Instr.wellFormed (m : DecodeMode) (i : Instr) : Bool := (byteOfOp m.config i.op).isSome && i.formed m

end Sys2Proof
end

