-- ==== Sys2Proof/Decode.lean ====
section
/-! DEFINITION. What the decoder yields for an opcode (R102, R103, R108 to R110), decoding a command
from its bytes and encoding one into them (R100, R101, R104). -/

namespace Sys2Proof

/-- The format of an opcode (R105). -/
def formatOf : Op → Format
  | .wren | .wrdi | .resetEnable | .resetMemory | .en4b | .ex4b | .bulkEraseC7 | .bulkErase60 => .f0
  | .rdsr | .readFsr | .brrd | .extendAddrRead | .jedecRead | .rdid90 | .rnvcr | .rvcr | .revcr => .fr
  | .wrsr | .wvcr | .wevcr | .extendAddrWrite | .brwr => .fd1
  | .wnvcr => .fd2
  | .read | .read4 | .fastRead | .fastRead4 | .dor | .dor4 | .qor | .qor4 => .fa
  | .pp | .pp4 | .dpp | .qpp | .pp4_4 => .fa
  | .erase4k | .erase4_4k | .erase32k | .erase4_32k | .eraseSector | .erase4Sector => .fa
  | .dior | .dior4 | .qior | .qior4 => .fax
  | .aaiWp => .aai

/-- The 4-byte-address variants of R102: the opcodes that always collect four address bytes. -/
def fourByteOp : Op → Bool
  | .read4 | .fastRead4 | .dor4 | .qor4 | .dior4 | .qior4 | .pp4 | .pp4_4 => true
  | .erase4_4k | .erase4_32k | .erase4Sector => true
  | _ => false

/-- `AddrLen(op)` of R102, in bytes. -/
def addrLen (m : DecodeMode) (op : Op) : Nat :=
  if op = .aaiWp then 3 else if fourByteOp op then 4 else if m.a4b then 4 else 3

/-- `Extra(op)` of R103: the mode/dummy bytes after the address. -/
def extraLen (c : Config) (v : Variant) : Op → Nat
  | .dior | .dior4 => c.dioExtra.get v
  | .qior | .qior4 => c.qioExtra.get v
  | _ => 0

/-- `need(op)`: the number of parameter bytes the opcode asks for in the mode (R103, R105, R107, R215). -/
def needOf (m : DecodeMode) (op : Op) : Nat :=
  match formatOf op with
  | .f0 | .fr => 0
  | .fd1 => 1
  | .fd2 => 2
  | .fa => addrLen m op
  | .fax => addrLen m op + extraLen m.config m.variant op
  | .aai => if m.aai then 0 else addrLen m op

/-- `Hint(op)` of R109: the bus-width hint. -/
def hintOf : Op → Lines
  | .dor | .dor4 | .dior | .dior4 | .dpp => .two
  | .qor | .qor4 | .qior | .qior4 | .qpp | .pp4_4 => .four
  | _ => .one

/-- `Cyclic(op)` of R110: the status-style reads. -/
def cyclicOf : Op → Bool
  | .rdsr | .readFsr => true
  | _ => false

/-- Three bytes as one number, the first the most significant (R71). -/
def be3 (x y z : Byte) : BitVec 24 := x ++ y ++ z

/-- Four bytes as one number, the first the most significant (R71). -/
def be4 (w x y z : Byte) : BitVec 32 := w ++ x ++ y ++ z

/-- Two bytes as one number, the first the LEAST significant (R72, format `FD2`). -/
def le2 (lo hi : Byte) : BitVec 16 := hi ++ lo

/-- An address field of three or four bytes (R71, R101); no other length is one. -/
def addrOfBytes : List Byte → Option Addr
  | [x, y, z] => some (.a3 (be3 x y z))
  | [w, x, y, z] => some (.a4 (be4 w x y z))
  | _ => none

/-- A 4-byte address field (R71, R101). -/
def addr4OfBytes : List Byte → Option (BitVec 32)
  | [w, x, y, z] => some (be4 w x y z)
  | _ => none

/-- One data byte (format `FD1`). -/
def dataOfBytes : List Byte → Option Byte
  | [b] => some b
  | _ => none

/-- The command of an opcode and its complete parameter bytes, of which the last `x` are mode/dummy bytes (R104, R133: the
address length is the number of bytes less `x`). `none` where the bytes do not have the opcode's form. -/
def instrOfParams (op : Op) (x : Nat) (ps : List Byte) : Option Instr :=
  let addr  := ps.take (ps.length - x)
  let mode  := ps.drop (ps.length - x)
  match op with
  | .wren => if ps = [] then some .wren else none
  | .wrdi => if ps = [] then some .wrdi else none
  | .resetEnable => if ps = [] then some .resetEnable else none
  | .resetMemory => if ps = [] then some .resetMemory else none
  | .en4b => if ps = [] then some .en4b else none
  | .ex4b => if ps = [] then some .ex4b else none
  | .rdsr => if ps = [] then some .rdsr else none
  | .readFsr => if ps = [] then some .readFsr else none
  | .brrd => if ps = [] then some .brrd else none
  | .extendAddrRead => if ps = [] then some .extendAddrRead else none
  | .jedecRead => if ps = [] then some .jedecRead else none
  | .rdid90 => if ps = [] then some .rdid90 else none
  | .rnvcr => if ps = [] then some .rnvcr else none
  | .rvcr => if ps = [] then some .rvcr else none
  | .revcr => if ps = [] then some .revcr else none
  | .bulkEraseC7 => if ps = [] then some .bulkEraseC7 else none
  | .bulkErase60 => if ps = [] then some .bulkErase60 else none
  | .wrsr => (dataOfBytes ps).map .wrsr
  | .wvcr => (dataOfBytes ps).map .wvcr
  | .wevcr => (dataOfBytes ps).map .wevcr
  | .extendAddrWrite => (dataOfBytes ps).map .extendAddrWrite
  | .brwr => (dataOfBytes ps).map .brwr
  | .wnvcr => match ps with
      | [lo, hi] => some (.wnvcr (le2 lo hi))
      | _ => none
  | .read => (addrOfBytes addr).map .read
  | .read4 => (addr4OfBytes addr).map .read4
  | .fastRead => (addrOfBytes addr).map .fastRead
  | .fastRead4 => (addr4OfBytes addr).map .fastRead4
  | .dor => (addrOfBytes addr).map .dor
  | .dor4 => (addr4OfBytes addr).map .dor4
  | .qor => (addrOfBytes addr).map .qor
  | .qor4 => (addr4OfBytes addr).map .qor4
  | .dior => (addrOfBytes addr).map (.dior · mode)
  | .dior4 => (addr4OfBytes addr).map (.dior4 · mode)
  | .qior => (addrOfBytes addr).map (.qior · mode)
  | .qior4 => (addr4OfBytes addr).map (.qior4 · mode)
  | .pp => (addrOfBytes addr).map .pp
  | .pp4 => (addr4OfBytes addr).map .pp4
  | .dpp => (addrOfBytes addr).map .dpp
  | .qpp => (addrOfBytes addr).map .qpp
  | .pp4_4 => (addr4OfBytes addr).map .pp4_4
  | .aaiWp => match ps with
      | [] => some (.aaiWp none)
      | [x, y, z] => some (.aaiWp (some (be3 x y z)))
      | _ => none
  | .erase4k => (addrOfBytes addr).map .erase4k
  | .erase4_4k => (addr4OfBytes addr).map .erase4_4k
  | .erase32k => (addrOfBytes addr).map .erase32k
  | .erase4_32k => (addr4OfBytes addr).map .erase4_32k
  | .eraseSector => (addrOfBytes addr).map .eraseSector
  | .erase4Sector => (addr4OfBytes addr).map .erase4Sector

/-- Why bytes are not a command. -/
inductive DecodeError where
  /-- No byte at all. -/
  | noBytes
  /-- The first byte is no opcode of the map (R106). -/
  | unknownOpcode (b : Byte)
  /-- Fewer parameter bytes than the opcode needs (R318). -/
  | missingParameters (op : Op) (need have_ : Nat)
  /-- The parameter bytes do not have the opcode's form; no bytes of the needed number are so. -/
  | badParameters (op : Op)
  deriving DecidableEq, Repr

/-- The command that a run of bytes begins with, and the bytes after it (R100, R107): total, and rejecting by name. -/
def decode (m : DecodeMode) : List Byte → Except DecodeError (Instr × List Byte)
  | [] => .error .noBytes
  | b :: rest =>
    match opOfByte m.config b with
    | none => .error (.unknownOpcode b)
    | some op =>
      if rest.length < needOf m op then .error (.missingParameters op (needOf m op) rest.length)
      else
        match instrOfParams op (extraLen m.config m.variant op) (rest.take (needOf m op)) with
        | none => .error (.badParameters op)
        | some i => .ok (i, rest.drop (needOf m op))

/-- The bytes of a 3-byte address field, most significant first (R71, R101). -/
def bytesOf3 (v : BitVec 24) : List Byte := [v.extractLsb' 16 8, v.extractLsb' 8 8, v.extractLsb' 0 8]

/-- The bytes of a 4-byte address field, most significant first (R71, R101). -/
def bytesOf4 (v : BitVec 32) : List Byte :=
  [v.extractLsb' 24 8, v.extractLsb' 16 8, v.extractLsb' 8 8, v.extractLsb' 0 8]

/-- The bytes of an address field (R101). -/
def Addr.bytes : Addr → List Byte
  | .a3 v => bytesOf3 v
  | .a4 v => bytesOf4 v

/-- The parameter bytes of a command, in the order of the bus (R101). -/
def Instr.params : Instr → List Byte
  | .wren | .wrdi | .resetEnable | .resetMemory | .en4b | .ex4b => []
  | .rdsr | .readFsr | .brrd | .extendAddrRead | .jedecRead | .rdid90 | .rnvcr | .rvcr | .revcr => []
  | .bulkEraseC7 | .bulkErase60 => []
  | .wrsr b | .wvcr b | .wevcr b | .extendAddrWrite b | .brwr b => [b]
  | .wnvcr v => [v.extractLsb' 0 8, v.extractLsb' 8 8]
  | .read a | .fastRead a | .dor a | .qor a | .pp a | .dpp a | .qpp a => a.bytes
  | .erase4k a | .erase32k a | .eraseSector a => a.bytes
  | .read4 v | .fastRead4 v | .dor4 v | .qor4 v | .pp4 v | .pp4_4 v => bytesOf4 v
  | .erase4_4k v | .erase4_32k v | .erase4Sector v => bytesOf4 v
  | .dior a x | .qior a x => a.bytes ++ x
  | .dior4 v x | .qior4 v x => bytesOf4 v ++ x
  | .aaiWp none => []
  | .aaiWp (some v) => bytesOf3 v

/-- The bytes of a command under a configuration: its opcode, then its parameter bytes (R100, R101). A command whose opcode the
map does not hold has no opcode byte, and is not well-formed. -/
def encode (c : Config) (i : Instr) : List Byte := (byteOfOp c i.op).toList ++ i.params

/-- The decode mode of the machine after reset: the configuration of the spec, 3-byte addresses, no AAI sequence, and the
variant of the reset part. -/
def resetMode : DecodeMode := { config := Config.spec, a4b := false, aai := false, variant := .generic }

/-- The first ten bytes (the longest command, R23) of an instruction whose bits are `w`: byte `j` is bits `8j+7` to `8j`, and
every bit at or above `nbits` is 0. -/
def tableBytes (nbits w : Nat) : List Byte :=
  [0, 1, 2, 3, 4, 5, 6, 7, 8, 9].map (fun j => if 8 * j < nbits then BitVec.ofNat 8 (w >>> (8 * j)) else 0#8)

/-- The instruction that the decoder reads, in the mode after reset, from an instruction whose bits are `w`. -/
def decodeTableWord (nbits w : Nat) : Option Instr :=
  match decode resetMode (tableBytes nbits w) with
  | .ok (i, _) => some i
  | .error _ => none

end Sys2Proof
end

