-- ==== Sys2Proof/Machine/RegRead.lean ====
section
/-! DEFINITION. The status, identification and configuration reads (42_register_read_commands.md, R160 to R168). Each loads the
response when its opcode is decoded. -/

namespace Sys2Proof.Machine

/-- RDSR (R160). -/
def execRdsr (s : State) : Host.Outcome State Fault Refusal := .next (s.loadResponse [s.dev.sr] (cyclicOf .rdsr))

/-- READ_FSR (R161). -/
def execReadFsr (s : State) : Host.Outcome State Fault Refusal := .next (s.loadResponse [s.dev.fsr] (cyclicOf .readFsr))

/-- BRRD (R162). -/
def execBrrd (s : State) : Host.Outcome State Fault Refusal := .next (s.loadResponse [s.dev.ear] (cyclicOf .brrd))

/-- EXTEND_ADDR_READ (R163): the same register under its other name. -/
def execExtendAddrRead (s : State) : Host.Outcome State Fault Refusal :=
  .next (s.loadResponse [s.dev.ear] (cyclicOf .extendAddrRead))

/-- The identification of R164: `jedec_id` most significant byte first, then `ext_jedec_id` likewise when it is not 0. -/
def jedecBytes (p : Part) : List Byte :=
  [p.jedecId.extractLsb' 16 8, p.jedecId.extractLsb' 8 8, p.jedecId.extractLsb' 0 8] ++
    if p.extJedecId = 0#16 then [] else [p.extJedecId.extractLsb' 8 8, p.extJedecId.extractLsb' 0 8]

/-- JEDEC_READ (R164). -/
def execJedecRead (s : State) : Host.Outcome State Fault Refusal :=
  .next (s.loadResponse (jedecBytes s.part) (cyclicOf .jedecRead))

/-- RDID_90 (R165). -/
def execRdid90 (s : State) : Host.Outcome State Fault Refusal :=
  .next (s.loadResponse [s.part.vendorId, s.part.deviceId] (cyclicOf .rdid90))

/-- RNVCR (R166): the low byte first (R72). -/
def execRnvcr (s : State) : Host.Outcome State Fault Refusal :=
  .next (s.loadResponse [s.dev.nvcfg.extractLsb' 0 8, s.dev.nvcfg.extractLsb' 8 8] (cyclicOf .rnvcr))

/-- RVCR (R167). -/
def execRvcr (s : State) : Host.Outcome State Fault Refusal := .next (s.loadResponse [s.dev.vcfg] (cyclicOf .rvcr))

/-- REVCR (R168). -/
def execRevcr (s : State) : Host.Outcome State Fault Refusal := .next (s.loadResponse [s.dev.evcfg] (cyclicOf .revcr))

end Sys2Proof.Machine
end

