-- ==== Sys2Proof/Machine/RegWrite.lean ====
section
/-! DEFINITION. The status and configuration register writes (43_register_write_commands.md, R175 to R181). Each runs when its
last data byte has arrived. -/

namespace Sys2Proof.Machine

/-- WRSR (R176): the data byte is not retained, and the write-enable latch is cleared. -/
def execWrsr (_db0 : Byte) (s : State) : Host.Outcome State Fault Refusal := .next ((s.setWel false).setSeq .idle)

/-- WNVCR (R177). -/
def execWnvcr (value : BitVec 16) (s : State) : Host.Outcome State Fault Refusal := .next (s.configWrite (·.setNvcfg value))

/-- WVCR (R178). -/
def execWvcr (db0 : Byte) (s : State) : Host.Outcome State Fault Refusal := .next (s.configWrite (·.setVcfg db0))

/-- WEVCR (R179). -/
def execWevcr (db0 : Byte) (s : State) : Host.Outcome State Fault Refusal := .next (s.configWrite (·.setEvcfg db0))

/-- EXTEND_ADDR_WRITE (R180). -/
def execExtendAddrWrite (db0 : Byte) (s : State) : Host.Outcome State Fault Refusal := .next (s.configWrite (·.setEar db0))

/-- BRWR (R181): the same register; bit 7 has no effect on the addressing mode. -/
def execBrwr (db0 : Byte) (s : State) : Host.Outcome State Fault Refusal := .next (s.configWrite (·.setEar db0))

end Sys2Proof.Machine
end

