-- ==== Sys2Proof/Machine/Dispatch.lean ====
section
/-! DEFINITION. Execute (R131, R132): the own rule of each command, run once its parameter bytes are complete. -/

namespace Sys2Proof.Machine

/-- The own rule of a command (R150 to R233). -/
def exec (i : Instr) (s : State) : Host.Outcome State Fault Refusal :=
  match i with
  | .wrsr db0 => Sys2Proof.Machine.execWrsr db0 s
  | .pp a => Sys2Proof.Machine.execPp a s
  | .read a => Sys2Proof.Machine.execRead a s
  | .wrdi => Sys2Proof.Machine.execWrdi s
  | .rdsr => Sys2Proof.Machine.execRdsr s
  | .wren => Sys2Proof.Machine.execWren s
  | .fastRead a => Sys2Proof.Machine.execFastRead a s
  | .fastRead4 a => Sys2Proof.Machine.execFastRead4 a s
  | .pp4 a => Sys2Proof.Machine.execPp4 a s
  | .read4 a => Sys2Proof.Machine.execRead4 a s
  | .brrd => Sys2Proof.Machine.execBrrd s
  | .brwr db0 => Sys2Proof.Machine.execBrwr db0 s
  | .erase4k a => Sys2Proof.Machine.execErase4k a s
  | .erase4_4k a => Sys2Proof.Machine.execErase4_4k a s
  | .qpp a => Sys2Proof.Machine.execQpp a s
  | .dor a => Sys2Proof.Machine.execDor a s
  | .dor4 a => Sys2Proof.Machine.execDor4 a s
  | .pp4_4 a => Sys2Proof.Machine.execPp4_4 a s
  | .erase32k a => Sys2Proof.Machine.execErase32k a s
  | .erase4_32k a => Sys2Proof.Machine.execErase4_32k a s
  | .bulkErase60 => Sys2Proof.Machine.execBulkErase60 s
  | .wevcr db0 => Sys2Proof.Machine.execWevcr db0 s
  | .revcr => Sys2Proof.Machine.execRevcr s
  | .resetEnable => Sys2Proof.Machine.execResetEnable s
  | .qor a => Sys2Proof.Machine.execQor a s
  | .qor4 a => Sys2Proof.Machine.execQor4 a s
  | .readFsr => Sys2Proof.Machine.execReadFsr s
  | .wvcr db0 => Sys2Proof.Machine.execWvcr db0 s
  | .rvcr => Sys2Proof.Machine.execRvcr s
  | .rdid90 => Sys2Proof.Machine.execRdid90 s
  | .resetMemory => Sys2Proof.Machine.execResetMemory s
  | .jedecRead => Sys2Proof.Machine.execJedecRead s
  | .dpp a => Sys2Proof.Machine.execDpp a s
  | .aaiWp a => Sys2Proof.Machine.execAaiWp a s
  | .wnvcr value => Sys2Proof.Machine.execWnvcr value s
  | .rnvcr => Sys2Proof.Machine.execRnvcr s
  | .en4b => Sys2Proof.Machine.execEn4b s
  | .dior a mode => Sys2Proof.Machine.execDior a mode s
  | .dior4 a mode => Sys2Proof.Machine.execDior4 a mode s
  | .extendAddrWrite db0 => Sys2Proof.Machine.execExtendAddrWrite db0 s
  | .bulkEraseC7 => Sys2Proof.Machine.execBulkEraseC7 s
  | .extendAddrRead => Sys2Proof.Machine.execExtendAddrRead s
  | .eraseSector a => Sys2Proof.Machine.execEraseSector a s
  | .erase4Sector a => Sys2Proof.Machine.execErase4Sector a s
  | .ex4b => Sys2Proof.Machine.execEx4b s
  | .qior a mode => Sys2Proof.Machine.execQior a mode s
  | .qior4 a mode => Sys2Proof.Machine.execQior4 a mode s

end Sys2Proof.Machine
end

