-- ==== Sys2Proof/Machine/Invariant.lean ====
section
/-! DEFINITION. The invariants of R42, which are also the well-formedness of a restored snapshot (R46), with the facts about
the collector, the cursor and storage that every reachable state has. -/

namespace Sys2Proof.Machine

/-- While parameters are collected, `need` is what the decoder computed for the opcode in `S.cmd`: the two latches that it was
computed from cannot change meanwhile (R23, R102, R131). -/
abbrev Device.NeedAgrees (c : Config) (v : Variant) (d : Device) : Prop :=
  (opOfByte c d.cmd).map (needOf { config := c, a4b := d.a4b, aai := d.aai, variant := v }) = some d.need

/-- R42 (3) for the collector: `plen < need` inside, both 0 outside (R23, R44). -/
abbrev Device.CollectorWf (c : Config) (v : Variant) (d : Device) : Prop :=
  (d.seq = .collectingParams → d.pbuf.length < d.need ∧ d.NeedAgrees c v) ∧
    (d.seq ≠ .collectingParams → d.pbuf = [] ∧ d.need = 0)

/-- R42 (4) for the response: `rpos < rlen ≤ 5` inside, all cleared outside (R24). -/
abbrev Device.ResponseWf (d : Device) : Prop :=
  (d.seq = .streamingResponse → d.rpos < d.rbuf.length ∧ d.rbuf.length ≤ 5) ∧
    (d.seq ≠ .streamingResponse → d.rbuf = [] ∧ d.rpos = 0 ∧ d.rcyclic = false)

/-- R42 (5) for the dummy wait: `count < target` inside, both 0 outside (R28); the cursor is byte aligned (R25); measured at one
line, the wait is at most four times the greatest requirement of the configuration, since a requirement stands for at most
four lines and a rescale (R250) rounds up to whole units of the new width at most. -/
abbrev Device.WaitWf (c : Config) (d : Device) : Prop :=
  (d.seq = .dummyWait →
    d.dummyCount < d.dummyTarget ∧ d.dummyTarget * d.lines.toNat ≤ 4 * c.maxDummyUnits ∧ d.cur % 8 = 0) ∧
    (d.seq ≠ .dummyWait → d.dummyCount = 0 ∧ d.dummyTarget = 0)

/-- The storage is canonical and lists no address at or beyond the capacity (R40). -/
abbrev Device.StorageWf (c : Config) (p : Part) (d : Device) : Prop := d.mem.Wf c.erased ∧ ∀ x ∈ d.mem, x.1 < p.cap

/-- The dirty page is a page of the storage (R41, R42 (6)). -/
abbrev Device.DirtyWf (p : Part) (d : Device) : Prop := ∀ q ∈ d.dirty, q < p.npages

/-- All of R42 for the state `S` of a block with configuration `c` and part `p`; (1) and (7) hold by the types of `seq` and
`lines`. -/
abbrev Device.Wf (c : Config) (p : Part) (d : Device) : Prop :=
  d.CollectorWf c p.variant ∧ d.ResponseWf ∧ d.WaitWf c ∧ d.cur < p.capBits ∧ d.StorageWf c p ∧ d.DirtyWf p

/-- The blobs that `Restore` accepts on a block with configuration `c` and part `p` (R46): the same part, no violation of R42,
and no dirty page, which every `Snapshot` flushes before it returns. -/
abbrev Blob.Acceptable (c : Config) (p : Part) (b : Blob) : Prop := b.part = p ∧ b.dev.Wf c p ∧ b.dev.dirty = none

end Sys2Proof.Machine
end

