-- ==== Sys2Proof/Machine/Engine.lean ====
section
/-! DEFINITION. The data transfer engine, one operation for each state that it serves (R245 to R248), and the events that are
not transfers (R46, R249, R250, R310). -/

namespace Sys2Proof.Machine

/-- W4 when a 1 of the unit lands on a 0 of storage (R245, R284): `a` is the byte address, `old` the byte, `fold` its bits
that the unit `tx` lands on. -/
def State.warnZeroToOne (s : State) (a : Nat) (old fold tx : Byte) (w : Nat) : State :=
  if ~~~fold &&& tx &&& unitMask w = 0#8 then s else s.raise (.zeroToOne a old tx)

/-- The mutation of `ProgramUnit` (R245): `v` goes to the byte address `a`, whose page is marked dirty first. -/
def State.programByte (s : State) (a : Nat) (v : Byte) : State :=
  (s.markDirty (a / s.part.pageSize)).setMem (Memory.write s.config.erased s.dev.mem a v)

/-- `ProgramUnit(tx, w)` (R245). -/
def programUnit (tx : Byte) (w : Nat) (s : State) : Host.Outcome State Fault Refusal :=
  let a := s.dev.cur / 8
  let o := s.dev.cur % 8
  let old := s.memRead a
  let fold := unitAt old o w
  if s.part.cap ≤ a then .fault (.outsideStorage a)
  else if s.dev.wel then
    .next (((s.warnZeroToOne a old fold tx w).programByte a
      (withUnit old o w (if s.part.overwrite then tx else fold &&& tx))).advance w)
  else .next ((s.raise (.writeDisabled (.program a))).advance w)

/-- `ReadUnit(w)` (R246). -/
def readUnit (w : Nat) (s : State) : Host.Outcome State Fault Refusal :=
  let a := s.dev.cur / 8
  if s.part.cap ≤ a then .fault (.outsideStorage a)
  else .next ((s.setRx (unitAt (s.memRead a) (s.dev.cur % 8) w)).advance w)

/-- The response cursor after one byte (R247): the step that sends the last byte of a response that is not cyclic returns
to IDLE. -/
def Device.afterStream (d : Device) : Device :=
  if d.rpos + 1 = d.rbuf.length then
    if d.rcyclic then { d with rpos := 0 } else { d with rpos := 0, rbuf := [], seq := .idle }
  else { d with rpos := d.rpos + 1 }

/-- `StreamUnit()` (R247). -/
def streamUnit (s : State) : Host.Outcome State Fault Refusal :=
  match s.dev.rbuf[s.dev.rpos]? with
  | none => .refused .brokenState
  | some v => .next ((s.setRx v).setDev s.dev.afterStream)

/-- `DummyUnit()` (R248): one unit is one dummy cycle, whatever its width. -/
def dummyUnit (s : State) : Host.Outcome State Fault Refusal :=
  if s.dev.dummyTarget ≤ s.dev.dummyCount + 1 then .next ((s.setDummy 0 0).setSeq .read)
  else .next (s.setDummy (s.dev.dummyCount + 1) s.dev.dummyTarget)

/-- The fields that chip select resets on either edge (R249). -/
def State.resetDecode (s : State) : State :=
  { s with dev :=
    { s.dev with
      seq := .idle, pbuf := [], need := 0, rbuf := [], rpos := 0, rcyclic := false
      dummyCount := 0, dummyTarget := 0, widthHint := .one } }

/-- `Select(asserted)` (R249). -/
def select (asserted : Bool) (s : State) : Host.Outcome State Fault Refusal :=
  .next (if asserted then s.resetDecode else s.resetDecode.flushDirty)

/-- The lines recorded, and the remaining count of a pending dummy wait rescaled (R250). -/
def Device.withLines (r : Rounding) (d : Device) (new : Lines) : Device :=
  if d.seq = .dummyWait ∧ new ≠ d.lines then
    { d with
      lines := new, dummyCount := 0
      dummyTarget := r.divide ((d.dummyTarget - d.dummyCount) * d.lines.toNat) new.toNat }
  else { d with lines := new }

/-- `SetBusWidth(l)` (R250). -/
def setBusWidth (l : Nat) (s : State) : Host.Outcome State Fault Refusal :=
  match Lines.ofNat? l with
  | none => .refused .badBusWidth
  | some new => .next (s.setDev (s.dev.withLines s.config.dummyRound new))

/-- The state `S` that `PowerOn` makes before `ResetRegisters` (R310, R311): the fields that the reset does not write have the
values of R310, the others are about to be overwritten. -/
def attached (c : Config) (p : Part) (seed : Option Memory) : Device where
  seq := .idle
  cmd := 0x00#8
  pbuf := []
  need := 0
  rbuf := []
  rpos := 0
  rcyclic := false
  cur := 0
  lines := .one
  widthHint := .one
  dummyCount := 0
  dummyTarget := 0
  wel := false
  rstEn := false
  a4b := false
  aai := false
  ear := 0x00#8
  nvcfg := c.nvcfgInit
  vcfg := 0x00#8
  evcfg := 0x00#8
  mem := match seed with
    | some cells => Memory.ofSeed c.erased p.cap cells
    | none => []
  dirty := none

/-- `PowerOn(P, seed)` (R310). -/
def powerOn (p : Part) (seed : Option Memory) (s : State) : Host.Outcome State Fault Refusal :=
  if p.Wf then .next (((s.setPart p).setDev (attached s.config p seed)).resetRegisters) else .refused .badDescriptor

/-- The whole of `S` as the event's blob (R46). -/
def State.capture (s : State) : State := { s with out := { s.out with blob := some { part := s.part, dev := s.dev } } }

/-- `Snapshot()` (R46): the dirty page is flushed, then the whole of `S` is returned. -/
def snapshot (s : State) : Host.Outcome State Fault Refusal := .next s.flushDirty.capture

/-- `Restore(blob)` (R46). -/
def restore (b : Blob) (s : State) : Host.Outcome State Fault Refusal :=
  if b.Acceptable s.config s.part then .next (s.setDev b.dev) else .refused .badBlob

end Sys2Proof.Machine
end

