-- ==== Sys2Proof/Machine/Control.lean ====
section
/-! DEFINITION. The control skeleton: the decoder (R131), the collector (R132), the dispatch of a transfer (R130) and of an
event (R9). -/

namespace Sys2Proof.Machine

/-- A state transformation after a meaning has answered a next state. -/
def andThen (o : Host.Outcome State Fault Refusal) (f : State → State) : Host.Outcome State Fault Refusal :=
  match o with
  | .next s => .next (f s)
  | .fault r => .fault r
  | .refused r => .refused r

/-- What the decoder itself writes for the byte `b` of the opcode `op`: the reset-enable latch, `S.cmd` and the hint (R131). -/
def State.acceptOpcode (s : State) (b : Byte) (op : Op) : State := (s.clearResetEnable b).beginCommand b (hintOf op)

/-- `DecodeOpcode(op)` (R131): a command without parameters runs at once, any other begins to collect them. The bytes that
follow an unrecognized opcode are opcodes again (R106). -/
def decodeOpcode (b : Byte) (s : State) : Host.Outcome State Fault Refusal :=
  match opOfByte s.config b with
  | none => .next ((s.clearResetEnable b).raise (.unknownOpcode b))
  | some op =>
    if needOf s.mode op = 0 then
      match instrOfParams op 0 [] with
      | some i => exec i (s.acceptOpcode b op)
      | none => .refused .brokenState
    else .next ((s.acceptOpcode b op).startCollect (needOf s.mode op))

/-- The command in flight, read from `S.cmd` and the complete parameter buffer (R132, R133: the address length is `S.need` less
the opcode's mode/dummy bytes). -/
def State.commandInFlight (s : State) : Option Instr :=
  (opOfByte s.config s.dev.cmd).bind (fun op => instrOfParams op (extraLen s.config s.part.variant op) s.dev.pbuf)

/-- The hand-off to the executor when the parameters are complete (R132): the command runs and the buffer is cleared. -/
def runIfComplete (s : State) : Host.Outcome State Fault Refusal :=
  if s.dev.pbuf.length = s.dev.need then
    match s.commandInFlight with
    | some i => andThen (exec i s) State.clearParams
    | none => .refused .brokenState
  else .next s

/-- `Collect(b)` (R132). -/
def collect (b : Byte) (s : State) : Host.Outcome State Fault Refusal := runIfComplete (s.pushParam b)

/-- The units of R9: `w ∈ {1, 2, 4, 8}` and `tx < 2^w`. -/
abbrev ValidUnit (tx w : Nat) : Prop := (w = 1 ∨ w = 2 ∨ w = 4 ∨ w = 8) ∧ tx < 2 ^ w

/-- `Transfer(tx, w)`, dispatched on the sequencer (R130). -/
def transfer (tx w : Nat) (s : State) : Host.Outcome State Fault Refusal :=
  if ValidUnit tx w then
    match s.dev.seq with
    | .idle => if w = 8 then decodeOpcode (BitVec.ofNat 8 tx) s else .refused .narrowUnit
    | .collectingParams => if w = 8 then collect (BitVec.ofNat 8 tx) s else .refused .narrowUnit
    | .streamingResponse => if w = 8 then streamUnit s else .refused .narrowUnit
    | .pageProgram => if s.dev.cur % w = 0 then programUnit (BitVec.ofNat 8 tx) w s else .refused .misalignedUnit
    | .read => if s.dev.cur % w = 0 then readUnit w s else .refused .misalignedUnit
    | .dummyWait => dummyUnit s
  else .refused .badUnit

/-- One input event (R9). -/
def handle (e : Event) (s : State) : Host.Outcome State Fault Refusal :=
  match e with
  | .powerOn p seed => powerOn p seed s
  | .select asserted => select asserted s
  | .setBusWidth l => setBusWidth l s
  | .transfer tx w => transfer tx w s
  | .snapshot => snapshot s
  | .restore b => restore b s

/-- The state in which an event is handled: the event is taken from the queue and the outputs of the last one are gone (R9). -/
def State.accept (s : State) (rest : List Event) : State := { s with inputs := rest, out := Output.empty }

/-- One step: the oldest waiting event is handled to completion (R2). With none waiting nothing happens (R310) and nothing is
output. -/
def stepOnce (s : State) : Host.Outcome State Fault Refusal :=
  match s.inputs with
  | [] => .next (s.accept [])
  | e :: rest => handle e (s.accept rest)

/-- A byte waiting on the bus, and nothing else. -/
def State.onBus (s : State) (b : Byte) : State := { s with inputs := [.transfer b.toNat 8] }

/-- The parameter bytes collected so far. -/
def State.setParams (s : State) (ps : List Byte) : State := { s with dev := { s.dev with pbuf := ps } }

/-- `s` about to run the command whose opcode byte is `b` and whose parameter bytes begin `ps` (then zeros): a command without
parameters has its opcode waiting on the bus, any other has all bytes but the last collected and the last one waiting. An
unrecognized byte waits as an opcode. -/
def State.placeCommand (s : State) (b : Byte) (ps : List Byte) : State :=
  match opOfByte s.config b with
  | none => s.resetDecode.onBus b
  | some op =>
    match needOf s.mode op with
    | 0 => s.resetDecode.onBus b
    | k + 1 =>
      (((s.resetDecode.acceptOpcode b op).startCollect (k + 1)).setParams ((ps ++ List.replicate k 0#8).take k)).onBus
        (ps.getD k 0#8)

end Sys2Proof.Machine
end

