-- ==== Sys2Proof/Safety.lean ====
section
/-! DEFINITION. The terms in which claims about the machine are stated: the invariant of R42 over the model's state, the input
domain of the spec (93_implementation_defined.md), and what the backing sink holds (R84). -/

namespace Sys2Proof.Machine

/-- The invariant: a configuration as the rules ask for it, a well-formed part (R6) and R42 for the block's state. -/
abbrev State.Inv (s : State) : Prop := s.config.Wf ∧ s.part.Wf ∧ s.dev.Wf s.config s.part

/-- A byte-granular state (R12, R76). -/
abbrev Seq.ByteGranular (q : Seq) : Prop := q = .idle ∨ q = .collectingParams ∨ q = .streamingResponse

/-- A data state (R12, R75). -/
abbrev Seq.Data (q : Seq) : Prop := q = .pageProgram ∨ q = .read

/-- The input domain that the spec defines (R9, R130; U1 to U6 of 93_implementation_defined.md lie outside). -/
def InDomain (s : State) : Event → Prop
  | .powerOn p _ => p.Wf
  | .select _ => True
  | .setBusWidth l => l = 1 ∨ l = 2 ∨ l = 4
  | .transfer tx w => ValidUnit tx w ∧ (s.dev.seq.ByteGranular → w = 8) ∧ (s.dev.seq.Data → s.dev.cur % w = 0)
  | .snapshot => True
  | .restore b => b.Acceptable s.config s.part

/-- What a sink that held `k` holds after one record (R84), where `e` is the erased value. -/
def SinkWrite.applyTo (e : Byte) (k : Nat → Byte) (r : SinkWrite) : Nat → Byte :=
  fun a => if r.offset ≤ a ∧ a < r.offset + r.length then r.cells.read e a else k a

/-- What a sink that held `k` holds after records in order (R84). -/
def sinkAfter (e : Byte) (k : Nat → Byte) (rs : List SinkWrite) : Nat → Byte := rs.foldl (SinkWrite.applyTo e) k

/-- The address lies in the dirty page (R41). -/
def Device.InDirtyPage (p : Part) (d : Device) (a : Nat) : Prop :=
  ∃ q, d.dirty = some q ∧ q * p.pageSize ≤ a ∧ a < (q + 1) * p.pageSize

/-- A sink that holds `k` agrees with storage on every byte outside the dirty page (R84). -/
def State.SinkAgrees (s : State) (k : Nat → Byte) : Prop :=
  ∀ a, a < s.part.cap → ¬ s.dev.InDirtyPage s.part a → k a = s.memRead a

/-- The address erases (R226 to R231): the byte target, the erase size, and whether the part advertises that size. -/
def eraseForm (s : State) : Instr → Option (Nat × Nat × Bool)
  | .erase4k a      => some (s.target a, 4096, s.part.er4k)
  | .erase4_4k v    => some (s.target (.a4 v), 4096, s.part.er4k)
  | .erase32k a     => some (s.target a, 32768, s.part.er32k)
  | .erase4_32k v   => some (s.target (.a4 v), 32768, s.part.er32k)
  | .eraseSector a  => some (s.target a, s.part.sectorSize, true)
  | .erase4Sector v => some (s.target (.a4 v), s.part.sectorSize, true)
  | _ => none

/-- The event at the head of the queue. -/
abbrev State.Waiting (s : State) (e : Event) (rest : List Event) : Prop := s.inputs = e :: rest

end Sys2Proof.Machine
end

