-- ==== Sys2Proof/Certificates/Slice0/Obligations.lean ====
section
/-! DEFINITION. The statements for the provers. A clause that rests on a decision of 92_eei_decisions.md (D<n>) or on the model's
own choice (notes/assumptions/<n>.md) says so in its docstring. The parameters of R7 are fields of `State.config`, so a statement
about every state holds for every configuration; `ParametersHaveTheSpecsValues` says which values the spec takes. -/

open Sys2Proof Sys2Proof.Machine

/-! ### Decoding and encoding -/

/-- Decoding the bytes of a well-formed command gives the command back and leaves the bytes after it, under every opcode map
without repetitions, in every decode mode and for every operand (R100 to R104, R107; the byte values are decision D1, the form
of the I/O reads decision D20). -/
def Obligations.DecodeOfEncodeGivesTheCommand : Prop :=
  ∀ (m : DecodeMode) (i : Instr) (rest : List Byte), m.config.Wf → i.wellFormed m = true →
    decode m (encode m.config i ++ rest) = .ok (i, rest)

/-- Only the encoding of a well-formed command decodes to it: no byte of the bus is dropped and none is invented. -/
def Obligations.DecodedBytesAreTheEncoding : Prop :=
  ∀ (m : DecodeMode) (bs : List Byte) (i : Instr) (rest : List Byte), m.config.Wf →
    decode m bs = .ok (i, rest) → i.wellFormed m = true ∧ bs = encode m.config i ++ rest

/-- A few frames of the spec decode to the commands they stand for (R105, examples of R133, R177, R198, R215, R231). -/
def Obligations.SpecFramesDecode : Prop :=
  let m : DecodeMode := { config := Config.spec, a4b := false, aai := false, variant := .modeByte }
  decode m [0x03#8, 0x12#8, 0x34#8, 0x56#8] = .ok (.read (.a3 0x123456#24), []) ∧
    decode m [0x06#8, 0x05#8] = .ok (.wren, [0x05#8]) ∧
    decode m [0xB1#8, 0xFE#8, 0x8F#8] = .ok (.wnvcr 0x8FFE#16, []) ∧
    decode m [0xBB#8, 0x00#8, 0x00#8, 0x10#8, 0xA5#8, 0xFF#8] = .ok (.dior (.a3 0x000010#24) [0xA5#8], [0xFF#8]) ∧
    decode m [0xDC#8, 0x00#8, 0x01#8, 0x23#8, 0x45#8] = .ok (.erase4Sector 0x00012345#32, []) ∧
    decode { m with aai := true } [0xAD#8, 0x33#8] = .ok (.aaiWp none, [0x33#8])

/-- A byte that the map does not hold is refused by name; the map of the spec holds the 47 bytes of R105, each beside its
opcode, and the 209 other values are unknown under it (R105, R106; the byte values are decision D1). -/
def Obligations.BytesOutsideTheMapAreUnknown : Prop :=
  (∀ (m : DecodeMode) (b : Byte) (rest : List Byte), (∀ op, (b, op) ∉ m.config.opcodeMap) →
    decode m (b :: rest) = .error (.unknownOpcode b)) ∧
  (∀ r ∈ [(0x01, Op.wrsr), (0x02, .pp), (0x03, .read), (0x04, .wrdi), (0x05, .rdsr), (0x06, .wren), (0x0B, .fastRead),
      (0x0C, .fastRead4), (0x12, .pp4), (0x13, .read4), (0x16, .brrd), (0x17, .brwr), (0x20, .erase4k), (0x21, .erase4_4k),
      (0x32, .qpp), (0x3B, .dor)] ++
      [(0x3C, Op.dor4), (0x3E, .pp4_4), (0x52, .erase32k), (0x5C, .erase4_32k), (0x60, .bulkErase60), (0x61, .wevcr),
      (0x65, .revcr), (0x66, .resetEnable), (0x6B, .qor), (0x6C, .qor4), (0x70, .readFsr), (0x81, .wvcr), (0x85, .rvcr),
      (0x90, .rdid90), (0x99, .resetMemory), (0x9F, .jedecRead)] ++
      [(0xA2, Op.dpp), (0xAD, .aaiWp), (0xB1, .wnvcr), (0xB5, .rnvcr), (0xB7, .en4b), (0xBB, .dior), (0xBC, .dior4),
      (0xC5, .extendAddrWrite), (0xC7, .bulkEraseC7), (0xC8, .extendAddrRead), (0xD8, .eraseSector), (0xDC, .erase4Sector),
      (0xE9, .ex4b), (0xEB, .qior), (0xEC, .qior4)],
    opOfByte Config.spec (BitVec.ofNat 8 r.1) = some r.2 ∧ byteOfOp Config.spec r.2 = some (BitVec.ofNat 8 r.1)) ∧
  ((List.range 256).filter (fun n => opOfByte Config.spec (BitVec.ofNat 8 n) = none)).length = 209

/-- The configuration of the spec has the values of R7 and R111 (all of them the spec's choices, decisions D10, D19 to D21, D23,
D24 and D32, but for the erased value and the bank size), and it is as the rules ask for. -/
def Obligations.ParametersHaveTheSpecsValues : Prop :=
  let c := Config.spec
  c.Wf ∧ c.pmax = 16 ∧ c.rmax = 16 ∧ c.bankMask = 0x7F#8 ∧ c.bankSize = 16777216 ∧ c.erased = 0xFF#8 ∧ c.nvcfgInit = 0x8FFF#16 ∧
    c.dioExtra.get .modeByte = 1 ∧ c.dioExtra.get .generic = 2 ∧ c.dioExtra.get .nvcfg = 2 ∧
    c.qioExtra.get .modeByte = 3 ∧ c.qioExtra.get .generic = 5 ∧ c.qioExtra.get .nvcfg = 5 ∧ c.noRx = 0 ∧
    (∀ (op : Op) (vcfg : Byte) (p : Part), c.dummyUnits op vcfg p =
      if op ∈ [Op.fastRead, .fastRead4, .dor, .dor4, .qor, .qor4] then
        (if p.variant = .nvcfg then vcfg.toNat / 16 else 8)
      else 0) ∧
    ∀ a b : Nat, 0 < b → a ≤ c.dummyRound.divide a b * b ∧ ∀ n, a ≤ n * b → c.dummyRound.divide a b ≤ n

/-- Address parameters are assembled with the first byte the most significant, in a field of three bytes, in one of four, and in
the three bytes of a beginning AAI_WP (R71). -/
def Obligations.AddressBytesAreBigEndian : Prop :=
  (∀ x y z : Byte, ∃ a, addrOfBytes [x, y, z] = some a ∧ addrNat a = (x.toNat * 256 + y.toNat) * 256 + z.toNat) ∧
    (∀ w x y z : Byte, ∃ a, addrOfBytes [w, x, y, z] = some a ∧
      addrNat a = ((w.toNat * 256 + x.toNat) * 256 + y.toNat) * 256 + z.toNat) ∧
    (∀ w x y z : Byte, ∃ v, addr4OfBytes [w, x, y, z] = some v ∧
      v.toNat = ((w.toNat * 256 + x.toNat) * 256 + y.toNat) * 256 + z.toNat) ∧
    ∀ x y z : Byte, ∃ v, instrOfParams .aaiWp 0 [x, y, z] = some (.aaiWp (some v)) ∧
      v.toNat = (x.toNat * 256 + y.toNat) * 256 + z.toNat

/-! ### A step runs the decoded command -/

/-- In `IDLE` an opcode byte that is a whole command runs that command, after the decoder's own writes: the event is taken, the
outputs are empty, `S.cmd`, the hint, and the reset-enable latch unless the byte is RESET_MEMORY's (R131, R109; the hint's
values are decision D37). -/
def Obligations.StepRunsTheOpcode : Prop :=
  let hint : Op → Lines := fun op =>
    if op ∈ [Op.dor, .dor4, .dior, .dior4, .dpp] then .two
    else if op ∈ [Op.qor, .qor4, .qior, .qior4, .qpp, .pp4_4] then .four else .one
  ∀ (s : State) (tx : Nat) (rest : List Event) (i : Instr), s.dev.seq = .idle → s.Waiting (.transfer tx 8) rest → tx < 256 →
    decode s.mode [BitVec.ofNat 8 tx] = .ok (i, []) →
    step s = exec i { s with
      inputs := rest, out := Output.empty
      dev := { s.dev with
        cmd := BitVec.ofNat 8 tx, widthHint := hint i.op, rstEn := if i = .resetMemory then s.dev.rstEn else false } }

/-- In `IDLE` an opcode that needs parameters begins to collect them: one data byte, two for WNVCR, three address bytes for a
beginning AAI_WP, or the address in the length of the mode with the variant's mode/dummy bytes after it on the I/O reads (R131,
R101 to R103, R105, R109; the hint's values are decision D37, the numbers of mode/dummy bytes D20). -/
def Obligations.StepBeginsToCollect : Prop :=
  let hint : Op → Lines := fun op =>
    if op ∈ [Op.dor, .dor4, .dior, .dior4, .dpp] then .two
    else if op ∈ [Op.qor, .qor4, .qior, .qior4, .qpp, .pp4_4] then .four else .one
  ∀ (s : State) (tx : Nat) (op : Op) (rest : List Event), s.dev.seq = .idle → s.Waiting (.transfer tx 8) rest → tx < 256 →
    opOfByte s.config (BitVec.ofNat 8 tx) = some op →
    let address :=
      if op ∈ [Op.read4, .fastRead4, .dor4, .qor4, .dior4, .qior4, .pp4, .pp4_4, .erase4_4k, .erase4_32k, .erase4Sector] ∨
        s.dev.a4b = true then 4 else 3
    let need :=
      if op ∈ [Op.wren, .wrdi, .resetEnable, .resetMemory, .en4b, .ex4b, .bulkEraseC7, .bulkErase60, .rdsr, .readFsr, .brrd,
        .extendAddrRead, .jedecRead, .rdid90, .rnvcr, .rvcr, .revcr] then 0
      else if op ∈ [Op.wrsr, .wvcr, .wevcr, .extendAddrWrite, .brwr] then 1
      else if op = .wnvcr then 2
      else if op = .aaiWp then (if s.dev.aai then 0 else 3)
      else if op ∈ [Op.dior, .dior4] then address + s.config.dioExtra.get s.part.variant
      else if op ∈ [Op.qior, .qior4] then address + s.config.qioExtra.get s.part.variant
      else address
    need ≠ 0 →
    step s = .next { s with
      inputs := rest, out := Output.empty
      dev := { s.dev with
        cmd := BitVec.ofNat 8 tx, widthHint := hint op, rstEn := false, need := need, pbuf := [], seq := .collectingParams } }

/-- While parameters are collected each byte is appended; the byte that completes them runs the command that the opcode and
the collected bytes encode, clears the buffer, and leaves the collector (R132; that a chip select discards them is `SelectResetsTheDecodeState`). -/
def Obligations.StepCollectsAndRunsTheCommand : Prop :=
  ∀ (s : State) (tx : Nat) (rest : List Event), s.Inv → s.dev.seq = .collectingParams → s.Waiting (.transfer tx 8) rest →
    tx < 256 →
    let s₁ : State := { s with
      inputs := rest, out := Output.empty, dev := { s.dev with pbuf := s.dev.pbuf ++ [BitVec.ofNat 8 tx] } }
    if s.dev.pbuf.length + 1 = s.dev.need then
      ∃ i t, decode s.mode (s.dev.cmd :: s₁.dev.pbuf) = .ok (i, []) ∧ exec i s₁ = .next t ∧
        step s = .next { t with dev := { t.dev with pbuf := [], need := 0 } } ∧
        (t.dev.seq = .idle ∨ t.dev.seq = .read ∨ t.dev.seq = .dummyWait ∨ t.dev.seq = .pageProgram)
    else step s = .next s₁

/-- An unrecognized opcode byte raises W1 once, clears the reset-enable latch and changes nothing else (R106, R281; that the latch
is cleared is the resolution of conflict C1 of 90_conflicts.md). -/
def Obligations.UnrecognizedOpcodeOnlyWarns : Prop :=
  ∀ (s : State) (tx : Nat) (rest : List Event), s.dev.seq = .idle → s.Waiting (.transfer tx 8) rest → tx < 256 →
    (∀ op, (BitVec.ofNat 8 tx, op) ∉ s.config.opcodeMap) →
    step s = .next { s with
      inputs := rest, dev := { s.dev with rstEn := false }
      out := { Output.empty with warns := [.unknownOpcode (BitVec.ofNat 8 tx)] } }

/-- Sending the bytes of a well-formed command, one transfer each, from `IDLE` runs the command: the run ends in what the
command's own rule makes of the state that the decoder left, with the parameter buffer clear. -/
def Obligations.CommandBytesRunTheCommand : Prop :=
  ∀ (s : State) (i : Instr) (b : Byte) (rest : List Event), s.Inv → s.dev.seq = .idle → i.wellFormed s.mode = true →
    byteOfOp s.config i.op = some b →
    s.inputs = (encode s.config i).map (fun x => Event.transfer x.toNat 8) ++ rest →
    Host.Core.run Sys2Proof.core (encode s.config i).length s =
      andThen
        (exec i { s with
          inputs := rest, out := Output.empty
          dev := { s.dev with
            cmd := b, widthHint := hintOf i.op, rstEn := if i = .resetMemory then s.dev.rstEn else false } })
        State.clearParams

/-! ### The machine as a whole -/

/-- Every step keeps the invariant: a configuration as the rules ask for it, a well-formed part, and R42 with the facts that
`Device.Wf` adds to it, which are the model's: the bound of the dummy wait (notes/assumptions/5.md), the canonical storage list
(6.md), and `need` agreeing with `S.cmd` (8.md). That it holds after reset is `ResetMeetsTheInvariant`. -/
def Obligations.StepKeepsTheInvariant : Prop :=
  ∀ s t : State, s.Inv → step s = .next t → t.Inv

/-- Every step keeps the configuration, takes at most the oldest waiting event, and keeps the part unless that event is a
power-on (R5, R7, R9, R43; that both stand in the state is notes/assumptions/2.md and 11.md). -/
def Obligations.StepKeepsTheConfiguration : Prop :=
  ∀ s t : State, step s = .next t →
    t.config = s.config ∧ t.inputs = s.inputs.tail ∧
      (t.part = s.part ∨ ∃ seed rest, s.Waiting (.powerOn t.part seed) rest)

/-- The state after reset meets the invariant. -/
def Obligations.ResetMeetsTheInvariant : Prop := State.reset.Inv

/-- The widths of R20: under the invariant the buffers fit `PMAX` and `RMAX` and the cursor fits its 64 bits (R23, R24, R25, R88);
under the spec's parameters `need` is at most 9 (R23). That a dummy wait fits the 32 bits of R28, and is at most 60 units under
the spec's parameters, is the model's inference (notes/assumptions/5.md) from R111, at most 15 units on at most 4 lines, and
R250, the rescale; the clause of the invariant behind it is the model's too. -/
def Obligations.InvariantKeepsTheWidths : Prop :=
  ∀ s : State, s.Inv →
    s.dev.pbuf.length ≤ s.config.pmax ∧ s.dev.need ≤ s.config.pmax ∧ s.dev.rbuf.length ≤ s.config.rmax ∧
      s.dev.rpos ≤ s.dev.rbuf.length ∧ s.dev.cur < 2 ^ 35 ∧ s.dev.dummyTarget < 2 ^ 32 ∧
      s.dev.dummyCount ≤ s.dev.dummyTarget ∧ (s.dev.seq = .collectingParams → 1 ≤ s.dev.need) ∧
      (s.config = Config.spec → s.dev.need ≤ 9 ∧ s.dev.dummyTarget ≤ 60)

/-- Every event that the model holds to be in the input domain has a next state: nothing traps and nothing is stuck (R130, R290).
For `Restore` that is a blob which meets `Blob.Acceptable`, the model's own test of U6 (notes/assumptions/8.md): it takes in
every blob that the spec admits, and blobs that no `Snapshot` returned, which the spec refuses. -/
def Obligations.EventsOfTheDomainComplete : Prop :=
  ∀ (s : State) (e : Event) (rest : List Event), s.Inv → s.Waiting e rest → InDomain s e → ∃ t, step s = .next t

/-- Every event that the model holds to be outside the input domain is refused by its own name (U1 to U6 of
93_implementation_defined.md). For `Restore` that is a blob which fails `Blob.Acceptable`, the model's own test of U6
(notes/assumptions/8.md): a blob that meets it is accepted although no `Snapshot` may have returned it. -/
def Obligations.EventsOutsideTheDomainAreRefused : Prop :=
  ∀ (s : State) (rest : List Event),
    (∀ tx w, s.Waiting (.transfer tx w) rest → ¬ ValidUnit tx w → step s = .refused .badUnit) ∧
    (∀ tx w, s.Waiting (.transfer tx w) rest → ValidUnit tx w → s.dev.seq.ByteGranular → w ≠ 8 → step s = .refused .narrowUnit) ∧
    (∀ tx w, s.Waiting (.transfer tx w) rest → ValidUnit tx w → s.dev.seq.Data → s.dev.cur % w ≠ 0 →
      step s = .refused .misalignedUnit) ∧
    (∀ l, s.Waiting (.setBusWidth l) rest → l ≠ 1 ∧ l ≠ 2 ∧ l ≠ 4 → step s = .refused .badBusWidth) ∧
    (∀ p seed, s.Waiting (.powerOn p seed) rest → ¬ p.Wf → step s = .refused .badDescriptor) ∧
    ∀ b, s.Waiting (.restore b) rest → ¬ b.Acceptable s.config s.part → step s = .refused .badBlob

/-- At most one warning is raised per event (R289). -/
def Obligations.AtMostOneWarningPerEvent : Prop :=
  ∀ s t : State, step s = .next t → t.out.warns.length ≤ 1

/-- How control goes on never depends on the contents of storage: two states that differ in storage alone take the same event
to states that differ in storage (and outputs) alone, so no program or erase changes how a later byte is decoded (R86). -/
def Obligations.StorageNeverSteersControl : Prop :=
  ∀ (s t : State) (m : Memory), step s = .next t →
    ∃ t', step { s with dev := { s.dev with mem := m } } = .next t' ∧
      t'.dev = { t.dev with mem := t'.dev.mem } ∧ t'.config = t.config ∧ t'.part = t.part ∧ t'.inputs = t.inputs

/-! ### Latch and reset commands -/

/-- WREN, WRDI, RESET_ENABLE, EN4B and EX4B write their latches, return to `IDLE` and change nothing else (R150, R151, R152,
R154, R155; that WRDI clears the AAI latch is decision D27, EN4B and EX4B are decision D2). -/
def Obligations.LatchCommandsWriteTheirLatches : Prop :=
  ∀ s : State,
    exec .wren s = .next { s with dev := { s.dev with wel := true, seq := .idle } } ∧
    exec .wrdi s = .next { s with dev := { s.dev with wel := false, aai := false, seq := .idle } } ∧
    exec .resetEnable s = .next { s with dev := { s.dev with rstEn := true, seq := .idle } } ∧
    exec .en4b s = .next { s with dev := { s.dev with a4b := true, seq := .idle } } ∧
    exec .ex4b s = .next { s with dev := { s.dev with a4b := false, seq := .idle } }

/-- RESET_MEMORY: honored only with the reset-enable latch set; then every field has the value of the column "after
reset-memory" of R44, with storage, the non-volatile word, the bus width and the dirty page kept (R153, R312; the scope of the
reset is decision D31, the derivation decision D19). -/
def Obligations.ResetMemoryResetsTheRegisters : Prop :=
  ∀ s : State,
    (s.dev.rstEn = false → exec .resetMemory s = .next { s with dev := { s.dev with seq := .idle } }) ∧
    (s.dev.rstEn = true → s.part.variant ≠ .nvcfg →
      exec .resetMemory s = .next { s with dev := { State.reset.dev with
        lines := s.dev.lines, nvcfg := s.dev.nvcfg, mem := s.dev.mem, dirty := s.dev.dirty } }) ∧
    (s.dev.rstEn = true → s.part.variant = .nvcfg →
      exec .resetMemory s = .next { s with dev := { State.reset.dev with
        lines := s.dev.lines, nvcfg := s.dev.nvcfg, mem := s.dev.mem, dirty := s.dev.dirty
        a4b := (s.config.derived s.part.cap s.dev.nvcfg).a4b, ear := (s.config.derived s.part.cap s.dev.nvcfg).ear
        vcfg := (s.config.derived s.part.cap s.dev.nvcfg).vcfg, evcfg := (s.config.derived s.part.cap s.dev.nvcfg).evcfg } })

/-- The derivation of R313 under the spec's table, field by field (its bit positions are the spec's decision D19, from general knowledge). -/
def Obligations.DerivedRegistersFollowTheTable : Prop :=
  ∀ (cap : Nat) (nv : BitVec 16),
    let r := Config.spec.derived cap nv
    r.vcfg.toNat % 4 = 3 ∧ r.vcfg.toNat / 4 % 2 = 0 ∧ r.vcfg.toNat / 8 % 2 = (if nv.toNat / 2 ^ 9 % 8 = 7 then 1 else 0) ∧
      r.vcfg.toNat / 16 = nv.toNat / 2 ^ 12 ∧
      r.evcfg.toNat % 32 = 31 ∧ r.evcfg.toNat / 64 % 2 = nv.toNat / 4 % 2 ∧ r.evcfg.toNat / 128 = nv.toNat / 8 % 2 ∧
      r.evcfg.toNat / 32 % 2 = 0 ∧ (r.a4b = true ↔ nv.toNat % 2 = 0) ∧
      r.ear.toNat = (if nv.toNat / 2 % 2 = 0 ∧ 2 ^ 24 ≤ cap then (cap / 2 ^ 24 - 1) % 256 else 0)

/-- The write-enable latch after any transfer: set by WREN; cleared by WRDI, by a completed status-register write and by an
honored reset; else kept (R29; that nothing else clears it is decision D13). -/
def Obligations.WriteEnableLatchHistory : Prop :=
  ∀ (s t : State) (tx w : Nat) (rest : List Event), s.Inv → s.Waiting (.transfer tx w) rest → step s = .next t →
    let op := opOfByte s.config (BitVec.ofNat 8 tx)
    t.dev.wel =
      if s.dev.seq = .idle ∧ op = some .wren then true
      else if s.dev.seq = .idle ∧ (op = some .wrdi ∨ (op = some .resetMemory ∧ s.dev.rstEn = true)) then false
      else if s.dev.seq = .collectingParams ∧ opOfByte s.config s.dev.cmd = some .wrsr then false
      else s.dev.wel

/-- The reset-enable latch after any event: in `IDLE` an opcode byte leaves it set exactly when it is RESET_ENABLE's; parameter
bytes, data units, chip select, bus-width changes and snapshots keep it; power-on clears it; a restore brings the blob's
(R30; exactly which bytes clear it is decision D28). -/
def Obligations.ResetEnableLatchHistory : Prop :=
  ∀ (s t : State) (e : Event) (rest : List Event), s.Waiting e rest → step s = .next t →
    match e with
    | .transfer tx _ => t.dev.rstEn =
        if s.dev.seq = .idle then decide (opOfByte s.config (BitVec.ofNat 8 tx) = some .resetEnable) else s.dev.rstEn
    | .select _ => t.dev.rstEn = s.dev.rstEn
    | .setBusWidth _ => t.dev.rstEn = s.dev.rstEn
    | .snapshot => t.dev.rstEn = s.dev.rstEn
    | .powerOn _ _ => t.dev.rstEn = false
    | .restore b => t.dev.rstEn = b.dev.rstEn

/-- The 4-byte-address latch after any transfer: set by EN4B, cleared by EX4B, derived by an honored reset, else kept (R31, D19). -/
def Obligations.AddressModeLatchHistory : Prop :=
  ∀ (s t : State) (tx w : Nat) (rest : List Event), s.Waiting (.transfer tx w) rest → step s = .next t →
    let op := opOfByte s.config (BitVec.ofNat 8 tx)
    t.dev.a4b =
      if s.dev.seq = .idle ∧ op = some .en4b then true
      else if s.dev.seq = .idle ∧ op = some .ex4b then false
      else if s.dev.seq = .idle ∧ op = some .resetMemory ∧ s.dev.rstEn = true then
        decide (s.part.variant = .nvcfg) && s.config.derive.a4b.value s.dev.nvcfg
      else s.dev.a4b

/-- The AAI latch after any transfer: set when the address of a beginning AAI_WP is complete, cleared by WRDI and by an honored
reset, else kept (R32, R215; decision D27). -/
def Obligations.AaiLatchHistory : Prop :=
  ∀ (s t : State) (tx w : Nat) (rest : List Event), s.Inv → s.Waiting (.transfer tx w) rest → step s = .next t →
    let op := opOfByte s.config (BitVec.ofNat 8 tx)
    t.dev.aai =
      if s.dev.seq = .idle ∧ (op = some .wrdi ∨ (op = some .resetMemory ∧ s.dev.rstEn = true)) then false
      else if s.dev.seq = .collectingParams ∧ opOfByte s.config s.dev.cmd = some .aaiWp ∧ s.dev.pbuf.length = 2 then true
      else s.dev.aai

/-! ### Register reads and writes -/

/-- RDSR and READ_FSR load the composed status byte as a cyclic response and change nothing else (R160, R161, R33, R34; the bits
other than WEL are decisions D16 and D17, which reads are cyclic is decision D25). -/
def Obligations.StatusReadsLoadTheStatus : Prop :=
  ∀ s : State,
    exec .rdsr s = .next { s with dev := { s.dev with
      rbuf := [if s.dev.wel then 0x02#8 else 0x00#8], rpos := 0, rcyclic := true, seq := .streamingResponse } } ∧
    exec .readFsr s = .next { s with dev := { s.dev with
      rbuf := [if s.dev.a4b then 0x81#8 else 0x80#8], rpos := 0, rcyclic := true, seq := .streamingResponse } }

/-- BRRD, EXTEND_ADDR_READ, RNVCR (low byte first), RVCR, REVCR and RDID_90 (manufacturer first) load their register as a
response that ends, and change nothing else (R162, R163, R165 to R168; the byte orders are decision D26). -/
def Obligations.RegisterReadsLoadTheRegister : Prop :=
  ∀ s : State,
    (∀ i ∈ [Instr.brrd, Instr.extendAddrRead], exec i s = .next { s with dev := { s.dev with
      rbuf := [s.dev.ear], rpos := 0, rcyclic := false, seq := .streamingResponse } }) ∧
    exec .rnvcr s = .next { s with dev := { s.dev with
      rbuf := [BitVec.ofNat 8 s.dev.nvcfg.toNat, BitVec.ofNat 8 (s.dev.nvcfg.toNat / 256)]
      rpos := 0, rcyclic := false, seq := .streamingResponse } } ∧
    exec .rvcr s = .next { s with dev := { s.dev with
      rbuf := [s.dev.vcfg], rpos := 0, rcyclic := false, seq := .streamingResponse } } ∧
    exec .revcr s = .next { s with dev := { s.dev with
      rbuf := [s.dev.evcfg], rpos := 0, rcyclic := false, seq := .streamingResponse } } ∧
    exec .rdid90 s = .next { s with dev := { s.dev with
      rbuf := [s.part.vendorId, s.part.deviceId], rpos := 0, rcyclic := false, seq := .streamingResponse } }

/-- JEDEC_READ loads `jedec_id` big-endian, then `ext_jedec_id` big-endian if it is not 0, and changes nothing else (R73, R164;
that the response ends is R110, decision D25, the command's byte decision D1). -/
def Obligations.JedecReadLoadsTheIdentification : Prop :=
  ∀ s : State, exec .jedecRead s = .next { s with dev := { s.dev with
    rbuf :=
      [BitVec.ofNat 8 (s.part.jedecId.toNat / 65536), BitVec.ofNat 8 (s.part.jedecId.toNat / 256), BitVec.ofNat 8 s.part.jedecId.toNat] ++
        if s.part.extJedecId = 0#16 then []
        else [BitVec.ofNat 8 (s.part.extJedecId.toNat / 256), BitVec.ofNat 8 s.part.extJedecId.toNat]
    rpos := 0, rcyclic := false, seq := .streamingResponse } }

/-- WRSR clears the write-enable latch whatever its data byte, and changes nothing else (R176; decision D16). -/
def Obligations.StatusWriteClearsWriteEnable : Prop :=
  ∀ (s : State) (b : Byte), exec (.wrsr b) s = .next { s with dev := { s.dev with wel := false, seq := .idle } }

/-- The five configuration writes store their value when the write-enable latch is set, and nothing otherwise; the latch stays
as it was and no warning is raised; WNVCR's value comes low byte first (R175, R177 to R181, R72; decisions D13 and D15). -/
def Obligations.ConfigurationWritesNeedWriteEnable : Prop :=
  ∀ (s : State) (b : Byte) (lo hi : Byte),
    instrOfParams .wnvcr 0 [lo, hi] = some (.wnvcr (hi ++ lo)) ∧
    exec (.wnvcr (hi ++ lo)) s = .next { s with dev := { s.dev with
      nvcfg := if s.dev.wel then BitVec.ofNat 16 (lo.toNat + 256 * hi.toNat) else s.dev.nvcfg, seq := .idle } } ∧
    exec (.wvcr b) s = .next { s with dev := { s.dev with vcfg := if s.dev.wel then b else s.dev.vcfg, seq := .idle } } ∧
    exec (.wevcr b) s = .next { s with dev := { s.dev with evcfg := if s.dev.wel then b else s.dev.evcfg, seq := .idle } } ∧
    ∀ i ∈ [Instr.extendAddrWrite b, Instr.brwr b],
      exec i s = .next { s with dev := { s.dev with ear := if s.dev.wel then b else s.dev.ear, seq := .idle } }

/-- The non-volatile word after any event: WNVCR's completed write under write-enable, power-on and restore are all that can
change it (R36, R312). -/
def Obligations.NonVolatileWordChangesOnlyByItsWrite : Prop :=
  ∀ (s t : State) (e : Event) (rest : List Event), s.Waiting e rest → step s = .next t → t.dev.nvcfg ≠ s.dev.nvcfg →
    (∃ p seed, e = .powerOn p seed) ∨ (∃ b, e = .restore b) ∨
      (s.dev.wel = true ∧ s.dev.seq = .collectingParams ∧ opOfByte s.config s.dev.cmd = some .wnvcr ∧ s.dev.pbuf.length + 1 = s.dev.need ∧
        ∃ tx, e = .transfer tx 8)

/-! ### Reads -/

/-- READ and READ4 put the cursor at the target and enter READ, after the dummy requirement of the configuration, which the spec
sets to none; nothing else changes. A 3-byte address is extended by the bank, a 4-byte one is not, and both are reduced modulo
the capacity (R190, R191, R133, R134, R111; decisions D8, D10, D21). -/
def Obligations.PlainReadsEnterRead : Prop :=
  ∀ (s : State) (v3 : BitVec 24) (v4 : BitVec 32),
    let cap := s.part.sectorSize * s.part.sectorCount
    let after (op : Op) (cur : Nat) : State :=
      if s.config.dummyUnits op s.dev.vcfg s.part = 0 then { s with dev := { s.dev with cur := cur, seq := .read } }
      else { s with dev := { s.dev with
        cur := cur, seq := .dummyWait, dummyCount := 0, dummyTarget := s.config.dummyUnits op s.dev.vcfg s.part } }
    exec (.read (.a3 v3)) s = .next (after .read ((v3.toNat + s.config.bankSize * (s.dev.ear &&& s.config.bankMask).toNat) % cap * 8)) ∧
    (∀ i ∈ [Instr.read (.a4 v4), Instr.read4 v4], exec i s = .next (after i.op (v4.toNat % cap * 8))) ∧
    (s.config.dummyCycles = Config.spec.dummyCycles →
      ∀ op ∈ [Op.read, .read4], ∀ cur, after op cur = { s with dev := { s.dev with cur := cur, seq := .read } })

/-- The fast, dual-output and quad-output reads put the cursor at the target and wait for the dummy requirement of the
configuration, which the spec sets to `S.vcfg[7:4]` units on `V_NVCFG` and 8 otherwise; with none they enter READ at once (R192
to R197, R134, R111; decisions D8, D10, D21). -/
def Obligations.OutputReadsWaitForTheDummyUnits : Prop :=
  ∀ (s : State) (v3 : BitVec 24) (v4 : BitVec 32),
    let cap := s.part.sectorSize * s.part.sectorCount
    let after (op : Op) (cur : Nat) : State :=
      if s.config.dummyUnits op s.dev.vcfg s.part = 0 then { s with dev := { s.dev with cur := cur, seq := .read } }
      else { s with dev := { s.dev with
        cur := cur, seq := .dummyWait, dummyCount := 0, dummyTarget := s.config.dummyUnits op s.dev.vcfg s.part } }
    (∀ i ∈ [Instr.fastRead (.a3 v3), Instr.dor (.a3 v3), Instr.qor (.a3 v3)],
      exec i s = .next (after i.op ((v3.toNat + s.config.bankSize * (s.dev.ear &&& s.config.bankMask).toNat) % cap * 8))) ∧
    (∀ i ∈ [Instr.fastRead (.a4 v4), Instr.dor (.a4 v4), Instr.qor (.a4 v4), Instr.fastRead4 v4, Instr.dor4 v4, Instr.qor4 v4],
      exec i s = .next (after i.op (v4.toNat % cap * 8))) ∧
    (s.config.dummyCycles = Config.spec.dummyCycles → ∀ op ∈ [Op.fastRead, .fastRead4, .dor, .dor4, .qor, .qor4],
      s.config.dummyUnits op s.dev.vcfg s.part = if s.part.variant = .nvcfg then s.dev.vcfg.toNat / 16 else 8)

/-- The dual and quad I/O reads ignore their mode/dummy bytes, put the cursor at the target and enter READ, after the dummy
requirement of the configuration, which the spec sets to none (R198 to R201, R101, R111; decisions D8, D10, D20, D21). -/
def Obligations.IoReadsEnterRead : Prop :=
  ∀ (s : State) (v3 : BitVec 24) (v4 : BitVec 32) (mode : List Byte),
    let cap := s.part.sectorSize * s.part.sectorCount
    let after (op : Op) (cur : Nat) : State :=
      if s.config.dummyUnits op s.dev.vcfg s.part = 0 then { s with dev := { s.dev with cur := cur, seq := .read } }
      else { s with dev := { s.dev with
        cur := cur, seq := .dummyWait, dummyCount := 0, dummyTarget := s.config.dummyUnits op s.dev.vcfg s.part } }
    (∀ i ∈ [Instr.dior (.a3 v3) mode, Instr.qior (.a3 v3) mode],
      exec i s = .next (after i.op ((v3.toNat + s.config.bankSize * (s.dev.ear &&& s.config.bankMask).toNat) % cap * 8))) ∧
    (∀ i ∈ [Instr.dior (.a4 v4) mode, Instr.qior (.a4 v4) mode, Instr.dior4 v4 mode, Instr.qior4 v4 mode],
      exec i s = .next (after i.op (v4.toNat % cap * 8))) ∧
    (s.config.dummyCycles = Config.spec.dummyCycles →
      ∀ op ∈ [Op.dior, .dior4, .qior, .qior4], ∀ cur, after op cur = { s with dev := { s.dev with cur := cur, seq := .read } })

/-- A unit in READ: `rx` is the `w` bits of the byte at the cursor, most significant first, and the cursor advances by `w`,
wrapping at the capacity; nothing else changes (R246; the bit order is decision D5). -/
def Obligations.ReadUnitSendsTheBitsAtTheCursor : Prop :=
  ∀ (s : State) (tx w : Nat) (rest : List Event), s.dev.seq = .read → s.Waiting (.transfer tx w) rest → ValidUnit tx w →
    s.dev.cur % w = 0 → s.dev.cur < s.part.capBits →
    ∃ v : Byte, v.toNat = (s.memRead (s.dev.cur / 8)).toNat / 2 ^ (8 - s.dev.cur % 8 - w) % 2 ^ w ∧
      step s = .next { s with
        inputs := rest, out := { Output.empty with rx := some v }
        dev := { s.dev with cur := (s.dev.cur + w) % (s.part.cap * 8) } }

/-- Byte-wide units in READ send consecutive bytes of storage for as long as they come, whatever they carry, continuing at byte 0
after the last (R246, R137). -/
def Obligations.ReadStreamsConsecutiveBytes : Prop :=
  ∀ (u : Nat) (us : List Nat) (s : State) (rest : List Event), s.Inv → s.dev.seq = .read → s.dev.cur % 8 = 0 →
    (∀ x ∈ u :: us, x < 256) → s.inputs = (u :: us).map (fun x => Event.transfer x 8) ++ rest →
    Host.Core.run Sys2Proof.core (us.length + 1) s = .next { s with
      inputs := rest
      out := { Output.empty with rx := some (s.memRead ((s.dev.cur / 8 + us.length) % s.part.cap)) }
      dev := { s.dev with cur := (s.dev.cur + 8 * (us.length + 1)) % s.part.capBits } }

/-- A dummy wait ends after exactly the units that remain, whatever their widths, in READ with the cursor where it was and
without output (R248; decision D22). -/
def Obligations.DummyWaitEndsInRead : Prop :=
  ∀ (us : List (Nat × Nat)) (s : State) (rest : List Event), s.Inv → s.dev.seq = .dummyWait →
    (∀ u ∈ us, ValidUnit u.1 u.2) → us.length = s.dev.dummyTarget - s.dev.dummyCount →
    s.inputs = us.map (fun u => Event.transfer u.1 u.2) ++ rest →
    Host.Core.run Sys2Proof.core us.length s = .next { s with
      inputs := rest, out := Output.empty, dev := { s.dev with seq := .read, dummyCount := 0, dummyTarget := 0 } }

/-- Units of one width stay aligned to it: after a data unit at an aligned cursor the cursor is aligned again (R75). -/
def Obligations.DataUnitsOfOneWidthStayAligned : Prop :=
  ∀ (s t : State) (tx w : Nat) (rest : List Event), s.dev.seq.Data → s.Waiting (.transfer tx w) rest → step s = .next t →
    t.dev.seq = s.dev.seq ∧ t.dev.cur % w = 0

/-! ### Programs -/

/-- PP, PP4, DPP, QPP and PP4_4 put the cursor at the target and enter PAGE_PROGRAM, changing nothing else (R210 to R214, R133;
decisions D8 and D10). -/
def Obligations.ProgramCommandsEnterPageProgram : Prop :=
  ∀ (s : State) (v3 : BitVec 24) (v4 : BitVec 32),
    let cap := s.part.sectorSize * s.part.sectorCount
    (∀ i ∈ [Instr.pp (.a3 v3), Instr.dpp (.a3 v3), Instr.qpp (.a3 v3)],
      exec i s = .next { s with dev := { s.dev with
        cur := (v3.toNat + s.config.bankSize * (s.dev.ear &&& s.config.bankMask).toNat) % cap * 8, seq := .pageProgram } }) ∧
    ∀ i ∈ [Instr.pp (.a4 v4), Instr.dpp (.a4 v4), Instr.qpp (.a4 v4), Instr.pp4 v4, Instr.pp4_4 v4],
      exec i s = .next { s with dev := { s.dev with cur := v4.toNat % cap * 8, seq := .pageProgram } }

/-- AAI_WP: the begin form puts the cursor at the target and sets the in-progress latch, the continue form keeps the cursor;
both enter PAGE_PROGRAM and change nothing else (R215; decision D27). -/
def Obligations.AaiProgramBeginsOrContinues : Prop :=
  ∀ (s : State) (v : BitVec 24),
    exec (.aaiWp (some v)) s = .next { s with dev := { s.dev with
      cur := (v.toNat + s.config.bankSize * (s.dev.ear &&& s.config.bankMask).toNat) %
        (s.part.sectorSize * s.part.sectorCount) * 8
      aai := true, seq := .pageProgram } } ∧
    exec (.aaiWp none) s = .next { s with dev := { s.dev with seq := .pageProgram } }

/-- A unit in PAGE_PROGRAM with the write-enable latch set: the bits of the unit, most significant first, are combined with
the bits they land on by AND, or replace them on an overwrite part; every other bit and every other byte is kept; the page is
marked dirty and the page left behind is written back; the cursor advances by `w`, wrapping at the capacity; W4 is raised
exactly when a 1 lands on a 0 (R245, R83; the bit order is decision D5, the wrap D9, the order of the flush D39). -/
def Obligations.ProgramUnitCombinesTheBits : Prop :=
  ∀ (s : State) (tx w : Nat) (rest : List Event), s.Inv → s.dev.seq = .pageProgram → s.Waiting (.transfer tx w) rest →
    ValidUnit tx w → s.dev.cur % w = 0 → s.dev.wel = true →
    let a := s.dev.cur / 8
    let o := s.dev.cur % 8
    let old := s.memRead a
    ∃ t, step s = .next t ∧ t.config = s.config ∧ t.part = s.part ∧ t.inputs = rest ∧
      t.dev = { s.dev with
        mem := t.dev.mem, dirty := some (a / s.part.pageSize), cur := (s.dev.cur + w) % (s.part.cap * 8) } ∧
      (∀ b, b ≠ a → t.memRead b = s.memRead b) ∧
      (∀ k < 8, (t.memRead a).getMsbD k =
        if o ≤ k ∧ k < o + w then tx.testBit (o + w - 1 - k) && (s.part.overwrite || old.getMsbD k) else old.getMsbD k) ∧
      t.out = { Output.empty with
        warns := t.out.warns
        sinks := match s.dev.dirty with
          | some q => if q = a / s.part.pageSize then [] else
              [{ offset := q * s.part.pageSize, length := s.part.pageSize
                 cells := s.dev.mem.slice (q * s.part.pageSize) (q * s.part.pageSize + s.part.pageSize) }]
          | none => [] } ∧
      ((∃ k < w, tx.testBit k = true ∧ old.getMsbD (o + w - 1 - k) = false) → t.out.warns = [.zeroToOne a old (BitVec.ofNat 8 tx)]) ∧
      ((∀ k < w, tx.testBit k = true → old.getMsbD (o + w - 1 - k) = true) → t.out.warns = [])

/-- A unit in PAGE_PROGRAM without write-enable raises W2 and advances the cursor; storage and the dirty page are kept
(R245, R282; decision D14). -/
def Obligations.ProgramUnitWithoutWriteEnableOnlyWarns : Prop :=
  ∀ (s : State) (tx w : Nat) (rest : List Event), s.dev.seq = .pageProgram → s.Waiting (.transfer tx w) rest →
    ValidUnit tx w → s.dev.cur % w = 0 → s.dev.cur < s.part.capBits → s.dev.wel = false →
    step s = .next { s with
      inputs := rest, out := { Output.empty with warns := [.writeDisabled (.program (s.dev.cur / 8))] }
      dev := { s.dev with cur := (s.dev.cur + w) % (s.part.cap * 8) } }

/-- What was programmed reads back: a unit put into a byte at an aligned offset is the unit read there, and a unit read at any
other aligned offset of that width is what it was (R74, R245, R246; decision D5). -/
def Obligations.UnitWrittenIsTheUnitRead : Prop :=
  ∀ (v u : Byte) (o o' w : Nat), (w = 1 ∨ w = 2 ∨ w = 4 ∨ w = 8) → o < 8 → o' < 8 → o % w = 0 → o' % w = 0 →
    u.toNat < 2 ^ w →
    unitAt (withUnit v o w u) o' w = if o' = o then u else unitAt v o' w

/-! ### Erases -/

/-- An address erase with the write-enable latch set: exactly the bytes of the aligned range, clipped at the capacity, read
the erased value (0xFF, R7) after it and every other byte reads as before; the cursor holds the target; one sink record carries the range; W3 is
raised exactly when the part does not advertise the size; nothing else changes (R225 to R231; decisions D8, D10, D11,
D13, D39). -/
def Obligations.AddressErasesSetTheRange : Prop :=
  ∀ (s : State) (i : Instr) (target len : Nat) (advertised : Bool), eraseForm s i = some (target, len, advertised) →
    s.dev.wel = true →
    let base := target - target % len
    let stop := min (base + len) s.part.cap
    ∃ t r, exec i s = .next t ∧
      (∀ a, t.memRead a = if base ≤ a ∧ a < stop then s.config.erased else s.memRead a) ∧
      t.dev = { s.dev with seq := .idle, cur := target * 8, mem := t.dev.mem } ∧ t.config = s.config ∧ t.part = s.part ∧
      t.inputs = s.inputs ∧
      t.out = { s.out with
        warns := s.out.warns ++ (if advertised then [] else [.eraseUnsupported s.dev.cmd]), sinks := s.out.sinks ++ [r] } ∧
      r.offset = base ∧ r.length = stop - base ∧ ∀ a, r.cells.read s.config.erased a = s.config.erased

/-- An address erase without write-enable raises W2 alone, sets the cursor and changes nothing else (R225; decision D12). -/
def Obligations.AddressErasesNeedWriteEnable : Prop :=
  ∀ (s : State) (i : Instr) (target len : Nat) (advertised : Bool), eraseForm s i = some (target, len, advertised) →
    s.dev.wel = false →
    exec i s = .next { s with
      dev := { s.dev with seq := .idle, cur := target * 8 }
      out := { s.out with warns := s.out.warns ++ [.writeDisabled (.erase s.dev.cmd)] } }

/-- A bulk erase: with write-enable every byte reads the erased value (0xFF, R7) and one sink record carries the whole storage; without it W2 is
raised and no byte changes; the cursor is kept (R232, R233; decisions D13, D33). -/
def Obligations.BulkErasesSetEveryByte : Prop :=
  ∀ (s : State) (i : Instr), i = .bulkEraseC7 ∨ i = .bulkErase60 → s.dev.StorageWf s.config s.part →
    (s.dev.wel = true → ∃ r, exec i s = .next { s with
        dev := { s.dev with seq := .idle, mem := [] }, out := { s.out with sinks := s.out.sinks ++ [r] } } ∧
      (∀ a, Memory.read s.config.erased [] a = s.config.erased) ∧ r.offset = 0 ∧ r.length = s.part.cap ∧ ∀ a, r.cells.read s.config.erased a = s.config.erased) ∧
    (s.dev.wel = false → exec i s = .next { s with
      dev := { s.dev with seq := .idle }, out := { s.out with warns := s.out.warns ++ [.writeDisabled (.erase s.dev.cmd)] } })

/-- An erase size that the part does not advertise is erased all the same: the storage, the cursor and the sink records are
those of a part that advertises every size, and only W3 is added; a sector or bulk erase never raises it (R283). -/
def Obligations.UnsupportedEraseSizesStillErase : Prop :=
  ∀ (s t t' : State) (i : Instr), s.dev.wel = true → s.out.warns = [] →
    (eraseForm s i).isSome ∨ i = .bulkEraseC7 ∨ i = .bulkErase60 →
    exec i s = .next t → exec i { s with part := { s.part with er4k := true, er32k := true } } = .next t' →
    t.dev = t'.dev ∧ t.out.sinks = t'.out.sinks ∧ t'.out.warns = [] ∧
      (t.out.warns = [] ∨ t.out.warns = [.eraseUnsupported s.dev.cmd]) ∧
      (t.out.warns = [.eraseUnsupported s.dev.cmd] ↔
        (s.part.er4k = false ∧ (i.op = .erase4k ∨ i.op = .erase4_4k)) ∨
        (s.part.er32k = false ∧ (i.op = .erase32k ∨ i.op = .erase4_32k)))

/-! ### Protection -/

/-- Without write-enable no transfer changes a byte of storage or the non-volatile word, nor, short of an honored reset, the
bank register or a volatile configuration word (R82, R292; decision D40). -/
def Obligations.NothingMutatesWithoutWriteEnable : Prop :=
  ∀ (s t : State) (tx w : Nat) (rest : List Event), s.dev.wel = false → s.Waiting (.transfer tx w) rest → step s = .next t →
    t.dev.mem = s.dev.mem ∧ t.dev.nvcfg = s.dev.nvcfg ∧
      (¬ (s.dev.seq = .idle ∧ opOfByte s.config (BitVec.ofNat 8 tx) = some .resetMemory ∧ s.dev.rstEn = true) →
        t.dev.ear = s.dev.ear ∧ t.dev.vcfg = s.dev.vcfg ∧ t.dev.evcfg = s.dev.evcfg)

/-- A byte of storage changes only by power-on, by a restore, by a program unit that lands on it, or by an erase command that
completes; the last two only with write-enable (R40, R82). -/
def Obligations.StorageChangesOnlyByProgramAndErase : Prop :=
  ∀ (s t : State) (e : Event) (rest : List Event) (a : Nat), s.Inv → s.Waiting e rest → step s = .next t →
    t.memRead a ≠ s.memRead a →
    (∃ p seed, e = .powerOn p seed) ∨ (∃ b, e = .restore b) ∨
      (s.dev.wel = true ∧ ∃ tx w, e = .transfer tx w ∧
        ((s.dev.seq = .pageProgram ∧ a = s.dev.cur / 8) ∨
          (s.dev.seq = .idle ∧ opOfByte s.config (BitVec.ofNat 8 tx) ∈ [some .bulkEraseC7, some .bulkErase60]) ∨
          (s.dev.seq = .collectingParams ∧ s.dev.pbuf.length + 1 = s.dev.need ∧
            opOfByte s.config s.dev.cmd ∈
              [some .erase4k, some .erase4_4k, some .erase32k, some .erase4_32k, some .eraseSector, some .erase4Sector])))

/-! ### Responses, chip select, bus width -/

/-- A response is sent in order, one byte a unit whatever the unit carries: a cyclic one from its start again, any other once,
with `IDLE` entered in the step of its last byte (R247; decision D25). -/
def Obligations.ResponsesStreamInOrder : Prop :=
  ∀ (u : Nat) (us : List Nat) (s : State) (rest : List Event), s.Inv → s.dev.seq = .streamingResponse →
    (s.dev.rcyclic = false → s.dev.rpos + us.length < s.dev.rbuf.length) →
    (∀ x ∈ u :: us, x < 256) → s.inputs = (u :: us).map (fun x => Event.transfer x 8) ++ rest →
    Host.Core.run Sys2Proof.core (us.length + 1) s = .next { s with
      inputs := rest
      out := { Output.empty with rx := s.dev.rbuf[(s.dev.rpos + us.length) % s.dev.rbuf.length]? }
      dev := if s.dev.rcyclic = false ∧ s.dev.rpos + us.length + 1 = s.dev.rbuf.length
        then { s.dev with rbuf := [], rpos := 0, seq := .idle }
        else { s.dev with rpos := (s.dev.rpos + us.length + 1) % s.dev.rbuf.length } }

/-- Chip select on either edge resets the decode state; deassertion also writes the dirty page back; all else is kept (R249, R83;
which fields are reset is decision D30). -/
def Obligations.SelectResetsTheDecodeState : Prop :=
  ∀ (s : State) (asserted : Bool) (rest : List Event), s.Waiting (.select asserted) rest →
    step s = .next { s with
      inputs := rest
      dev := { s.dev with
        seq := .idle, pbuf := [], need := 0, rbuf := [], rpos := 0, rcyclic := false, dummyCount := 0, dummyTarget := 0
        widthHint := .one, dirty := if asserted then s.dev.dirty else none }
      out := { Output.empty with
        sinks := if asserted then [] else (s.dev.dirty.toList.map (fun q =>
          { offset := q * s.part.pageSize, length := s.part.pageSize
            cells := s.dev.mem.slice (q * s.part.pageSize) (q * s.part.pageSize + s.part.pageSize) })) } }

/-- A change of the bus width records it and, during a dummy wait, rescales what remains by the rounding of the configuration,
never to nothing; by the spec's rounding the new target is the least number of units at the new width that is at least the
remaining units at the old (R250; the rounding is decision D23). -/
def Obligations.BusWidthRescalesTheRemainingWait : Prop :=
  ∀ (s : State) (l : Lines) (rest : List Event), s.Inv → s.Waiting (.setBusWidth l.toNat) rest →
    let remaining := (s.dev.dummyTarget - s.dev.dummyCount) * s.dev.lines.toNat
    ∃ n, step s = .next { s with
        inputs := rest, out := Output.empty
        dev := if s.dev.seq = .dummyWait ∧ l ≠ s.dev.lines then { s.dev with lines := l, dummyCount := 0, dummyTarget := n }
          else { s.dev with lines := l } } ∧
      (s.dev.seq = .dummyWait ∧ l ≠ s.dev.lines → n = s.config.dummyRound.divide remaining l.toNat ∧ 1 ≤ n ∧
        (s.config.dummyRound = .ceiling → remaining ≤ n * l.toNat ∧ (n - 1) * l.toNat < remaining))

/-! ### Power-on, snapshot, sink -/

/-- `PowerOn` with a well-formed part: every field but storage has the value of the column "after `PowerOn`" of R44, on every
variant and under every configuration; under the spec's the derived registers are 0x8B, 0xDF, 3-byte addresses and bank 0 (R310,
R312, R313; decisions D19 and D31). What storage reads is `PowerOnSeedsTheStorage`; here it is only said to be in the canonical
form, which is the model's choice (notes/assumptions/6.md). -/
def Obligations.PowerOnGivesTheResetValues : Prop :=
  ∀ (s : State) (p : Part) (seed : Option Memory) (rest : List Event), s.Waiting (.powerOn p seed) rest → p.Wf →
    let r := s.config.derived p.cap s.config.nvcfgInit
    ∃ t, step s = .next t ∧ t.config = s.config ∧ t.part = p ∧ t.inputs = rest ∧ t.out = Output.empty ∧
      t.dev.mem.Wf s.config.erased ∧
      t.dev =
        (if p.variant = .nvcfg then { State.reset.dev with
          mem := t.dev.mem, nvcfg := s.config.nvcfgInit, vcfg := r.vcfg, evcfg := r.evcfg, a4b := r.a4b, ear := r.ear }
        else { State.reset.dev with mem := t.dev.mem, nvcfg := s.config.nvcfgInit }) ∧
      (s.config = Config.spec → s.config.nvcfgInit = 0x8FFF#16 ∧ r.vcfg = 0x8B#8 ∧ r.evcfg = 0xDF#8 ∧ r.a4b = false ∧
        r.ear = 0x00#8)

/-- `PowerOn` seeds the storage: every byte below the capacity is the seed's, or the erased value without a seed, which is 0xFF,
and no sink record is emitted (R311). -/
def Obligations.PowerOnSeedsTheStorage : Prop :=
  Config.spec.erased = 0xFF#8 ∧
  ∀ (s t : State) (p : Part) (seed : Option Memory) (rest : List Event), s.Waiting (.powerOn p seed) rest → step s = .next t →
    t.out.sinks = [] ∧
      ∀ a, a < p.cap → t.memRead a = match seed with
        | some cells => cells.read s.config.erased a
        | none => s.config.erased

/-- The state after reset is the one that `PowerOn` with the reset part and no seed makes under the configuration of the spec (the
part is the model's choice, notes/assumptions/1.md). -/
def Obligations.ResetIsPowerOnOfTheResetPart : Prop :=
  ∀ (s : State) (rest : List Event), s.config = Config.spec → s.Waiting (.powerOn resetPart none) rest →
    step s = .next { State.reset with inputs := rest }

/-- A snapshot writes the dirty page back, by one record of that page as storage holds it, captures the whole of `S` and changes
nothing else; restoring the blob on a block with the same part brings exactly that state back (R46, R83). -/
def Obligations.SnapshotRestores : Prop :=
  ∀ (s : State) (rest : List Event), s.Inv → s.Waiting .snapshot rest →
    ∃ b, step s = .next { s with
        inputs := rest, dev := { s.dev with dirty := none }
        out := { Output.empty with
          blob := some b
          sinks := s.dev.dirty.toList.map (fun q =>
            { offset := q * s.part.pageSize, length := s.part.pageSize
              cells := s.dev.mem.slice (q * s.part.pageSize) (q * s.part.pageSize + s.part.pageSize) }) } } ∧
      ∀ (u : State) (rest' : List Event), u.config = s.config → u.part = s.part → u.Waiting (.restore b) rest' →
        step u = .next { u with dev := { s.dev with dirty := none }, inputs := rest', out := Output.empty }

/-- A sink that applies the records in order agrees with storage on every byte outside the dirty page, and goes on to do so
after every event but a power-on or a restore (R84, R87). -/
def Obligations.SinkAgreesOutsideTheDirtyPage : Prop :=
  ∀ (s t : State) (e : Event) (rest : List Event) (k : Nat → Byte), s.Inv → s.Waiting e rest →
    (∀ p seed, e ≠ .powerOn p seed) → (∀ b, e ≠ .restore b) → s.SinkAgrees k → step s = .next t →
    t.SinkAgrees (sinkAfter s.config.erased k t.out.sinks)

/-- At the end of a frame the sink has received every mutation: after a deasserting chip select the block is in `IDLE`, no page
is dirty and the sink equals storage (R325, R87). -/
def Obligations.FrameEndLeavesTheSinkEqual : Prop :=
  ∀ (s : State) (rest : List Event) (k : Nat → Byte), s.Inv → s.Waiting (.select false) rest → s.SinkAgrees k →
    ∃ t, step s = .next t ∧ t.dev.seq = .idle ∧ t.dev.dirty = none ∧
      ∀ a, a < s.part.cap → sinkAfter s.config.erased k t.out.sinks a = t.memRead a
end

