-- ==== Sys2Proof/Laws/Encoding.lean ====
section
/-! SUPPORT. The laws of the byte-order helpers (R71, R72). -/

namespace Sys2Proof

/-- A number with one more byte below it. -/
theorem append_byte_toNat {n : Nat} (x : BitVec n) (y : Byte) : (x ++ y).toNat = x.toNat * 256 + y.toNat := by
  rw [BitVec.toNat_append, ← Nat.shiftLeft_add_eq_or_of_lt y.isLt, Nat.shiftLeft_eq]

theorem be3_toNat (x y z : Byte) : (be3 x y z).toNat = (x.toNat * 256 + y.toNat) * 256 + z.toNat := by
  simp only [be3, append_byte_toNat]

theorem be4_toNat (w x y z : Byte) :
    (be4 w x y z).toNat = ((w.toNat * 256 + x.toNat) * 256 + y.toNat) * 256 + z.toNat := by
  simp only [be4, append_byte_toNat]

theorem le2_toNat (lo hi : Byte) : (le2 lo hi).toNat = hi.toNat * 256 + lo.toNat := by
  simp only [le2, append_byte_toNat]

/-- The bytes of a number, put together again, are the number. -/
theorem be3_bytes (v : BitVec 24) : be3 (v.extractLsb' 16 8) (v.extractLsb' 8 8) (v.extractLsb' 0 8) = v := by
  apply BitVec.eq_of_toNat_eq
  have := v.isLt
  simp only [be3_toNat, BitVec.extractLsb'_toNat, Nat.shiftRight_eq_div_pow]
  omega

theorem be4_bytes (v : BitVec 32) :
    be4 (v.extractLsb' 24 8) (v.extractLsb' 16 8) (v.extractLsb' 8 8) (v.extractLsb' 0 8) = v := by
  apply BitVec.eq_of_toNat_eq
  have := v.isLt
  simp only [be4_toNat, BitVec.extractLsb'_toNat, Nat.shiftRight_eq_div_pow]
  omega

theorem le2_bytes (v : BitVec 16) : le2 (v.extractLsb' 0 8) (v.extractLsb' 8 8) = v := by
  apply BitVec.eq_of_toNat_eq
  have := v.isLt
  simp only [le2_toNat, BitVec.extractLsb'_toNat, Nat.shiftRight_eq_div_pow]
  omega

/-- The bytes of a number that was put together from bytes are those bytes. -/
theorem bytesOf3_be3 (x y z : Byte) : bytesOf3 (be3 x y z) = [x, y, z] := by
  have hx := x.isLt
  have hy := y.isLt
  have hz := z.isLt
  simp only [bytesOf3, List.cons.injEq, and_true]
  refine ⟨?_, ?_, ?_⟩ <;> apply BitVec.eq_of_toNat_eq <;>
    simp only [BitVec.extractLsb'_toNat, Nat.shiftRight_eq_div_pow, be3_toNat] <;> omega

theorem bytesOf4_be4 (w x y z : Byte) : bytesOf4 (be4 w x y z) = [w, x, y, z] := by
  have hw := w.isLt
  have hx := x.isLt
  have hy := y.isLt
  have hz := z.isLt
  simp only [bytesOf4, List.cons.injEq, and_true]
  refine ⟨?_, ?_, ?_, ?_⟩ <;> apply BitVec.eq_of_toNat_eq <;>
    simp only [BitVec.extractLsb'_toNat, Nat.shiftRight_eq_div_pow, be4_toNat] <;> omega

theorem bytesOf2_le2 (lo hi : Byte) : [(le2 lo hi).extractLsb' 0 8, (le2 lo hi).extractLsb' 8 8] = [lo, hi] := by
  have hx := lo.isLt
  have hy := hi.isLt
  simp only [List.cons.injEq, and_true]
  refine ⟨?_, ?_⟩ <;> apply BitVec.eq_of_toNat_eq <;>
    simp only [BitVec.extractLsb'_toNat, Nat.shiftRight_eq_div_pow, le2_toNat] <;> omega

/-- An address field decodes from its bytes. -/
@[simp] theorem addrOfBytes_bytes (a : Addr) : addrOfBytes a.bytes = some a := by
  cases a <;> simp [Addr.bytes, bytesOf3, bytesOf4, addrOfBytes, be3_bytes, be4_bytes]

@[simp] theorem addr4OfBytes_bytes (v : BitVec 32) : addr4OfBytes (bytesOf4 v) = some v := by
  simp [bytesOf4, addr4OfBytes, be4_bytes]

/-- Only the bytes of an address field decode to it. -/
theorem addrOfBytes_eq_some {ps : List Byte} {a : Addr} (h : addrOfBytes ps = some a) : ps = a.bytes := by
  unfold addrOfBytes at h
  split at h <;> cases h <;> simp only [Addr.bytes, bytesOf3_be3, bytesOf4_be4]

theorem addr4OfBytes_eq_some {ps : List Byte} {v : BitVec 32} (h : addr4OfBytes ps = some v) : ps = bytesOf4 v := by
  unfold addr4OfBytes at h
  split at h
  · cases h; simp only [bytesOf4_be4]
  · cases h

theorem dataOfBytes_eq_some {ps : List Byte} {b : Byte} (h : dataOfBytes ps = some b) : ps = [b] := by
  unfold dataOfBytes at h
  split at h
  · cases h; rfl
  · cases h

/-- The length of an address field is 3 or 4, as its kind says (R102). -/
theorem Addr.bytes_length (a : Addr) : a.bytes.length = match a with
    | .a3 _ => 3
    | .a4 _ => 4 := by
  cases a <;> rfl

@[simp] theorem bytesOf3_length (v : BitVec 24) : (bytesOf3 v).length = 3 := rfl
@[simp] theorem bytesOf4_length (v : BitVec 32) : (bytesOf4 v).length = 4 := rfl

end Sys2Proof
end

