-- ==== Sys2Proof/Laws/Memory.lean ====
section
/-! SUPPORT. The laws of storage: what is read after each operation, and that each keeps the canonical form (R40). -/

namespace Sys2Proof.Machine

variable {e : Byte}

@[simp] theorem Memory.read_nil (a : Nat) : Memory.read e [] a = e := rfl

theorem Memory.wf_nil : Memory.Wf e [] := by simp [Memory.Wf]

theorem Memory.wf_cons {b : Nat} {x : Byte} {m : Memory} :
    Memory.Wf e ((b, x) :: m) ↔ (∀ c ∈ m, b < c.1) ∧ x ≠ e ∧ Memory.Wf e m := by
  simp only [Memory.Wf, List.pairwise_cons, List.mem_cons, forall_eq_or_imp]
  tauto

/-- An address below every listed one, or listed nowhere, reads as the erased value. -/
theorem Memory.read_of_not_mem (m : Memory) (a : Nat) (h : ∀ c ∈ m, c.1 ≠ a) : m.read e a = e := by
  induction m with
  | nil => rfl
  | cons c m ih =>
    obtain ⟨b, x⟩ := c
    have hb : a ≠ b := fun q => h (b, x) (by simp) q.symm
    simp only [Memory.read, if_neg hb]
    exact ih (fun c hc => h c (by simp [hc]))

/-- A read after a write gives the value written at that address, and at every other address what it gave before. -/
theorem Memory.read_write (m : Memory) (a b : Nat) (v : Byte) (hm : m.Wf e) :
    (m.write e a v).read e b = if b = a then v else m.read e b := by
  induction m with
  | nil =>
    by_cases hv : v = e <;> by_cases hb : b = a <;> simp [Memory.write, Memory.read, hv, hb]
  | cons c m ih =>
    obtain ⟨d, x⟩ := c
    obtain ⟨hlt, hx, hw⟩ := Memory.wf_cons.mp hm
    simp only [Memory.write]
    split
    · rename_i had
      have hnot : Memory.read e ((d, x) :: m) a = e := by
        apply Memory.read_of_not_mem
        intro c hc
        rcases List.mem_cons.mp hc with rfl | hc
        · simp; omega
        · have := hlt c hc; omega
      split
      · rename_i hv
        by_cases hb : b = a
        · subst hb; simp [hnot, hv]
        · simp [hb]
      · simp [Memory.read]
    · split
      · rename_i had hda
        subst hda
        split
        · rename_i hv
          by_cases hb : b = a
          · subst hb
            have := Memory.read_of_not_mem (e := e) m b (fun c hc => by have := hlt c hc; omega)
            simp [this, hv]
          · simp [Memory.read, hb]
        · by_cases hb : b = a <;> simp [Memory.read, hb]
      · rename_i had hda
        by_cases hb : b = d
        · subst hb
          have : ¬ b = a := fun q => hda q.symm
          simp [Memory.read, this]
        · simp [Memory.read, hb, ih hw]

theorem Memory.mem_write {m : Memory} {a : Nat} {v : Byte} {c : Host.Cell} (h : c ∈ m.write e a v) : c ∈ m ∨ c = (a, v) := by
  induction m with
  | nil =>
    simp only [Memory.write] at h
    split at h <;> simp_all
  | cons d m ih =>
    obtain ⟨b, x⟩ := d
    simp only [Memory.write] at h
    split at h
    · split at h
      · exact .inl h
      · rcases List.mem_cons.mp h with h | h
        · exact .inr h
        · exact .inl h
    · split at h
      · rename_i hb
        split at h
        · exact .inl (by simp [h])
        · rcases List.mem_cons.mp h with h | h
          · exact .inr (by rw [h, hb])
          · exact .inl (by simp [h])
      · rcases List.mem_cons.mp h with h | h
        · exact .inl (by simp [h])
        · rcases ih h with h | h
          · exact .inl (by simp [h])
          · exact .inr h

/-- A write keeps the canonical form. -/
theorem Memory.wf_write (m : Memory) (a : Nat) (v : Byte) (hm : m.Wf e) : (m.write e a v).Wf e := by
  induction m with
  | nil =>
    simp only [Memory.write]
    split
    · exact Memory.wf_nil
    · rename_i hv; exact Memory.wf_cons.mpr ⟨by simp, hv, Memory.wf_nil⟩
  | cons d m ih =>
    obtain ⟨b, x⟩ := d
    obtain ⟨hlt, hx, hw⟩ := Memory.wf_cons.mp hm
    simp only [Memory.write]
    split
    · rename_i hab
      split
      · exact hm
      · rename_i hv
        refine Memory.wf_cons.mpr ⟨?_, hv, hm⟩
        intro c hc
        rcases List.mem_cons.mp hc with rfl | hc
        · exact hab
        · have := hlt c hc; omega
    · split
      · split
        · exact hw
        · rename_i hv; exact Memory.wf_cons.mpr ⟨hlt, hv, hw⟩
      · refine Memory.wf_cons.mpr ⟨?_, hx, ih hw⟩
        intro c hc
        rcases Memory.mem_write hc with hc | rfl
        · exact hlt c hc
        · simp; omega

/-- Keeping the cells whose address satisfies a test leaves those addresses as they read and erases the others. -/
theorem Memory.read_filter (m : Memory) (p : Nat → Bool) (a : Nat) :
    Memory.read e (m.filter (fun c => p c.1)) a = if p a then m.read e a else e := by
  induction m with
  | nil => simp
  | cons d m ih =>
    obtain ⟨b, x⟩ := d
    by_cases hp : p b = true <;> by_cases hab : a = b
    · subst hab; simp [Memory.read, hp]
    · simp [Memory.read, hp, hab, ih]
    · subst hab; simp [hp, ih]
    · simp [Memory.read, hp, hab, ih]

/-- Keeping some of the cells keeps the canonical form. -/
theorem Memory.wf_filter (m : Memory) (p : Host.Cell → Bool) (hm : m.Wf e) : Memory.Wf e (m.filter p) :=
  ⟨hm.1.filter p, fun c hc => hm.2 c (List.mem_filter.mp hc).1⟩

/-- What is read after an erase (R225). -/
theorem Memory.read_erase (m : Memory) (lo hi a : Nat) :
    (m.erase lo hi).read e a = if lo ≤ a ∧ a < hi then e else m.read e a := by
  have h := Memory.read_filter (e := e) m (fun x => !(decide (lo ≤ x) && decide (x < hi))) a
  simp only [Memory.erase, h]
  by_cases h1 : lo ≤ a <;> by_cases h2 : a < hi <;> simp [h1, h2]

/-- An erase keeps the canonical form. -/
theorem Memory.wf_erase (m : Memory) (lo hi : Nat) (hm : m.Wf e) : (m.erase lo hi).Wf e := Memory.wf_filter m _ hm

/-- What is read from a slice. -/
theorem Memory.read_slice (m : Memory) (lo hi a : Nat) :
    (m.slice lo hi).read e a = if lo ≤ a ∧ a < hi then m.read e a else e := by
  have h := Memory.read_filter (e := e) m (fun x => decide (lo ≤ x) && decide (x < hi)) a
  simp only [Memory.slice, h]
  by_cases h1 : lo ≤ a <;> by_cases h2 : a < hi <;> simp [h1, h2]

/-- A slice keeps the canonical form. -/
theorem Memory.wf_slice (m : Memory) (lo hi : Nat) (hm : m.Wf e) : (m.slice lo hi).Wf e := Memory.wf_filter m _ hm

/-- Folding writes keeps the canonical form and reads as the list does. -/
theorem Memory.ofSeed_spec (cap : Nat) (seed : Memory) :
    (Memory.ofSeed e cap seed).Wf e ∧ (∀ c ∈ Memory.ofSeed e cap seed, c.1 < cap) ∧
      ∀ a, (Memory.ofSeed e cap seed).read e a = if a < cap then seed.read e a else e := by
  induction seed with
  | nil => exact ⟨Memory.wf_nil, by simp [Memory.ofSeed], by simp [Memory.ofSeed]⟩
  | cons d seed ih =>
    obtain ⟨b, x⟩ := d
    obtain ⟨hw, hlt, hr⟩ := ih
    by_cases hb : b < cap
    · have hs : Memory.ofSeed e cap ((b, x) :: seed) = (Memory.ofSeed e cap seed).write e b x := by
        simp [Memory.ofSeed, hb]
      rw [hs]
      refine ⟨Memory.wf_write _ _ _ hw, ?_, ?_⟩
      · intro c hc
        rcases Memory.mem_write hc with hc | rfl
        · exact hlt c hc
        · exact hb
      · intro a
        rw [Memory.read_write _ _ _ _ hw, hr]
        by_cases hab : a = b
        · subst hab; simp [Memory.read, hb]
        · simp [Memory.read, hab]
    · have hs : Memory.ofSeed e cap ((b, x) :: seed) = Memory.ofSeed e cap seed := by
        simp [Memory.ofSeed, hb]
      rw [hs]
      refine ⟨hw, hlt, fun a => ?_⟩
      rw [hr]
      by_cases hab : a = b
      · subst hab; simp [hb]
      · simp [Memory.read, hab]

/-- Equal memories read alike, and canonical memories that read alike are equal: the form is canonical. -/
theorem Memory.ext_of_wf (m n : Memory) (hm : m.Wf e) (hn : n.Wf e) (h : ∀ a, m.read e a = n.read e a) : m = n := by
  induction m generalizing n with
  | nil =>
    cases n with
    | nil => rfl
    | cons d n =>
      obtain ⟨b, x⟩ := d
      have := h b
      simp only [Memory.read, if_true] at this
      exact absurd this.symm (Memory.wf_cons.mp hn).2.1
  | cons d m ih =>
    obtain ⟨b, x⟩ := d
    obtain ⟨hlt, hx, hw⟩ := Memory.wf_cons.mp hm
    cases n with
    | nil =>
      have := h b
      simp only [Memory.read, if_true] at this
      exact absurd this hx
    | cons f n =>
      obtain ⟨c, y⟩ := f
      obtain ⟨hlt', hy, hw'⟩ := Memory.wf_cons.mp hn
      have low : ∀ (k : Memory) (d a : Nat), (∀ c ∈ k, d < c.1) → a ≤ d → k.read e a = e := fun k d a hk ha =>
        Memory.read_of_not_mem k a (fun c hc => by have := hk c hc; omega)
      have hbc : b = c := by
        rcases Nat.lt_trichotomy b c with hlt1 | heq | hlt1
        · have := h b
          simp only [Memory.read, if_true, if_neg (Nat.ne_of_lt hlt1), low n c b hlt' (Nat.le_of_lt hlt1)] at this
          exact absurd this hx
        · exact heq
        · have := h c
          simp only [Memory.read, if_true, if_neg (Nat.ne_of_lt hlt1), low m b c hlt (Nat.le_of_lt hlt1)] at this
          exact absurd this.symm hy
      subst hbc
      have hxy : x = y := by simpa [Memory.read] using h b
      subst hxy
      congr 1
      refine ih n hw hw' (fun a => ?_)
      by_cases hab : a = b
      · subst hab; rw [low m a a hlt (Nat.le_refl _), low n a a hlt' (Nat.le_refl _)]
      · simpa [Memory.read, hab] using h a

end Sys2Proof.Machine
end

