-- ==== Sys2Proof/Laws/Params.lean ====
section
/-! SUPPORT. The laws of the configuration: its opcode map (R105), its dummy table (R111), its rounding (R250), and that the
values of the spec are as the rules ask for. -/

namespace Sys2Proof

/-- The configuration of the spec is as the rules ask for. -/
theorem Config.spec_wf : Config.spec.Wf := by decide

/-! ### Opcode map -/

/-- A byte that the map recognizes stands in it beside its opcode. -/
theorem mem_of_opOfByte {c : Config} {b : Byte} {op : Op} (h : opOfByte c b = some op) : (b, op) ∈ c.opcodeMap := by
  unfold opOfByte at h
  obtain ⟨⟨x, o⟩, hf, rfl⟩ := Option.map_eq_some_iff.mp h
  have hx : x = b := by simpa using List.find?_some hf
  exact hx ▸ List.mem_of_find?_eq_some hf

/-- An opcode that has a byte stands in the map beside it. -/
theorem mem_of_byteOfOp {c : Config} {b : Byte} {op : Op} (h : byteOfOp c op = some b) : (b, op) ∈ c.opcodeMap := by
  unfold byteOfOp at h
  obtain ⟨⟨x, o⟩, hf, rfl⟩ := Option.map_eq_some_iff.mp h
  have ho : o = op := by simpa using List.find?_some hf
  exact ho ▸ List.mem_of_find?_eq_some hf

/-- The entry of a list whose keys are distinct is the one that the search for its key finds. -/
theorem find?_of_nodup {α β : Type} [DecidableEq β] {l : List α} {f : α → β} (hn : (l.map f).Nodup) {x : α} (hx : x ∈ l) :
    l.find? (fun r => decide (f r = f x)) = some x := by
  induction l with
  | nil => simp at hx
  | cons y l ih =>
    simp only [List.map_cons, List.nodup_cons] at hn
    rcases List.mem_cons.mp hx with rfl | hx
    · simp
    · have hne : f y ≠ f x := fun he => hn.1 (he ▸ List.mem_map_of_mem hx)
      simp only [List.find?_cons, decide_eq_false hne]
      exact ih hn.2 hx

/-- Where no opcode has two bytes and no byte two opcodes, the two ways to read the map agree (R105). -/
theorem opOfByte_iff_byteOfOp {c : Config} (h : c.Wf) {b : Byte} {op : Op} :
    opOfByte c b = some op ↔ byteOfOp c op = some b := by
  constructor
  · intro hb
    have := find?_of_nodup h.2.1 (mem_of_opOfByte hb)
    unfold byteOfOp
    simp only at this
    rw [this]
    rfl
  · intro ho
    have := find?_of_nodup h.1 (mem_of_byteOfOp ho)
    unfold opOfByte
    simp only [← beq_eq_decide] at this
    rw [this, Option.map_some]

/-! ### Dummy table -/

/-- The field `vcfg[7:4]` as a number (R37). -/
theorem vcfgField_count (v : Byte) : DummyUnits.vcfgField.count v = v.toNat / 16 := by
  simp only [DummyUnits.count, BitVec.toNat_ushiftRight, Nat.shiftRight_eq_div_pow, Nat.reducePow]

/-- No row asks for more than its most. -/
theorem DummyUnits.count_le (u : DummyUnits) (v : Byte) : u.count v ≤ u.most := by
  cases u with
  | fixed n => exact Nat.le_refl n
  | vcfgField =>
    rw [vcfgField_count]
    have := v.isLt
    simp only [DummyUnits.most]
    omega

theorem le_foldr_max {l : List Nat} {n : Nat} (h : n ∈ l) : n ≤ l.foldr max 0 := by
  induction l with
  | nil => simp at h
  | cons m l ih =>
    rcases List.mem_cons.mp h with rfl | h
    · exact Nat.le_max_left _ _
    · exact Nat.le_trans (ih h) (Nat.le_max_right _ _)

/-- No command asks for more units than the most of the configuration (R111). -/
theorem dummyUnits_le (c : Config) (op : Op) (v : Byte) (p : Part) : c.dummyUnits op v p ≤ c.maxDummyUnits := by
  unfold Config.dummyUnits
  split
  · rename_i r hr
    exact Nat.le_trans (r.units.count_le v)
      (le_foldr_max (List.mem_map_of_mem (List.mem_of_find?_eq_some hr)))
  · exact Nat.zero_le _

/-- Under the spec's table six opcodes have a dummy requirement (R111). -/
theorem spec_dummyUnits (op : Op) (v : Byte) (p : Part) :
    Config.spec.dummyUnits op v p =
      if op ∈ [Op.fastRead, .fastRead4, .dor, .dor4, .qor, .qor4] then
        (if p.variant = .nvcfg then v.toNat / 16 else 8)
      else 0 := by
  rw [← vcfgField_count]
  cases hv : p.variant <;> cases op <;>
    simp [Config.dummyUnits, Config.spec, Config.specDummyCycles, DummyRow.applies, PartPattern.covers, hv] <;> rfl

/-- A table of rows can be any function of the opcode, the register and the part, on any finite number of parts; a block has
one part until it is attached anew. So a claim about every configuration is a claim about every `DUMMY_CYCLES` (R111). -/
theorem dummyTable_represents (f : Op → Byte → Part → Nat) (ps : List Part) :
    ∃ rows : List DummyRow, ∀ c : Config, c.dummyCycles = rows →
      ∀ (op : Op) (v : Byte), ∀ p ∈ ps, c.dummyUnits op v p = f op v p := by
  let row (op : Op) (v : Byte) (p : Part) : DummyRow :=
    { op := op, vcfg := some v, parts := .exactly p, units := .fixed (f op v p) }
  refine ⟨(Config.specOpcodeMap.map (·.2)).flatMap (fun op =>
    ((List.range 256).map (BitVec.ofNat 8)).flatMap (fun v => ps.map (row op v))), ?_⟩
  intro c hc op v p hp
  unfold Config.dummyUnits
  rw [hc]
  have hop : op ∈ Config.specOpcodeMap.map (·.2) := by cases op <;> decide
  have hv : v ∈ (List.range 256).map (BitVec.ofNat 8) :=
    List.mem_map.mpr ⟨v.toNat, List.mem_range.mpr v.isLt, BitVec.ofNat_toNat 8 v⟩
  split
  · rename_i r hr
    have ha := List.find?_some hr
    have hm := List.mem_of_find?_eq_some hr
    simp only [List.mem_flatMap] at hm
    obtain ⟨op', -, v', -, hm⟩ := hm
    obtain ⟨p', -, rfl⟩ := List.mem_map.mp hm
    simp only [DummyRow.applies, PartPattern.covers, row, Bool.and_eq_true, Bool.or_eq_true, decide_eq_true_eq, beq_iff_eq,
      reduceCtorEq, false_or, Option.some.injEq] at ha
    obtain ⟨⟨rfl, rfl⟩, rfl⟩ := ha
    rfl
  · rename_i hnone
    have hin : row op v p ∈ (Config.specOpcodeMap.map (·.2)).flatMap (fun op =>
        ((List.range 256).map (BitVec.ofNat 8)).flatMap (fun v => ps.map (row op v))) :=
      List.mem_flatMap.mpr ⟨op, hop, List.mem_flatMap.mpr ⟨v, hv, List.mem_map_of_mem hp⟩⟩
    have := List.find?_eq_none.mp hnone _ hin
    simp [DummyRow.applies, PartPattern.covers, row] at this

/-! ### Rounding -/

/-- The rescale by the ceiling is the least number of units that covers the wait (R8, R250). -/
theorem divide_ceiling (a b : Nat) (hb : 0 < b) (ha : 0 < a) :
    1 ≤ Rounding.ceiling.divide a b ∧ a ≤ Rounding.ceiling.divide a b * b ∧
      (Rounding.ceiling.divide a b - 1) * b < a := by
  simp only [Rounding.divide]
  have h1 := Nat.div_add_mod (a + b - 1) b
  have h2 := Nat.mod_lt (a + b - 1) hb
  have h3 : 1 ≤ (a + b - 1) / b := (Nat.one_le_div_iff hb).mpr (by omega)
  generalize (a + b - 1) / b = q at *
  obtain ⟨k, rfl⟩ : ∃ k, q = k + 1 := ⟨q - 1, by omega⟩
  have h4 : b * (k + 1) = k * b + b := by ring
  have h5 : (k + 1) * b = k * b + b := by ring
  rw [h4] at h1
  refine ⟨h3, ?_, ?_⟩
  · omega
  · rw [Nat.add_sub_cancel]; omega

/-- A rounding that a well-formed configuration has leaves at least one unit (R250). -/
theorem one_le_divide (r : Rounding) (a b : Nat) (hr : r ≠ .floor) (hb : 0 < b) (ha : 0 < a) : 1 ≤ r.divide a b := by
  cases r with
  | ceiling => exact (divide_ceiling a b hb ha).1
  | floor => exact absurd rfl hr
  | floorPositive => exact Nat.le_max_left _ _

/-- A rescale never goes beyond a multiple of the new width that covers the wait (R28, R250). -/
theorem divide_mul_le (r : Rounding) (a n : Nat) (l : Lines) (ha : 0 < a) (h : a ≤ 4 * n) :
    r.divide a l.toNat * l.toNat ≤ 4 * n := by
  cases r <;> cases l <;> simp only [Rounding.divide, Lines.toNat] <;> omega

end Sys2Proof
end

