-- ==== Sys2Proof/Laws/State.lean ====
section
/-! SUPPORT. What each named update does to each field of the state, one lemma a field, so that no proof unfolds an update. The
field `dev` is given as the record it becomes; its own fields then reduce by projection. -/

namespace Sys2Proof.Machine

@[simp] theorem State.setSeq_dev (s : State) (x : Seq) : (s.setSeq x).dev = { s.dev with seq := x } := rfl
@[simp] theorem State.setSeq_part (s : State) (x : Seq) : (s.setSeq x).part = s.part := rfl
@[simp] theorem State.setSeq_config (s : State) (x : Seq) : (s.setSeq x).config = s.config := rfl
@[simp] theorem State.setSeq_inputs (s : State) (x : Seq) : (s.setSeq x).inputs = s.inputs := rfl
@[simp] theorem State.setSeq_out (s : State) (x : Seq) : (s.setSeq x).out = s.out := rfl

@[simp] theorem State.setCur_dev (s : State) (x : Nat) : (s.setCur x).dev = { s.dev with cur := x } := rfl
@[simp] theorem State.setCur_part (s : State) (x : Nat) : (s.setCur x).part = s.part := rfl
@[simp] theorem State.setCur_config (s : State) (x : Nat) : (s.setCur x).config = s.config := rfl
@[simp] theorem State.setCur_inputs (s : State) (x : Nat) : (s.setCur x).inputs = s.inputs := rfl
@[simp] theorem State.setCur_out (s : State) (x : Nat) : (s.setCur x).out = s.out := rfl

@[simp] theorem State.setWel_dev (s : State) (x : Bool) : (s.setWel x).dev = { s.dev with wel := x } := rfl
@[simp] theorem State.setWel_part (s : State) (x : Bool) : (s.setWel x).part = s.part := rfl
@[simp] theorem State.setWel_config (s : State) (x : Bool) : (s.setWel x).config = s.config := rfl
@[simp] theorem State.setWel_inputs (s : State) (x : Bool) : (s.setWel x).inputs = s.inputs := rfl
@[simp] theorem State.setWel_out (s : State) (x : Bool) : (s.setWel x).out = s.out := rfl

@[simp] theorem State.setRstEn_dev (s : State) (x : Bool) : (s.setRstEn x).dev = { s.dev with rstEn := x } := rfl
@[simp] theorem State.setRstEn_part (s : State) (x : Bool) : (s.setRstEn x).part = s.part := rfl
@[simp] theorem State.setRstEn_config (s : State) (x : Bool) : (s.setRstEn x).config = s.config := rfl
@[simp] theorem State.setRstEn_inputs (s : State) (x : Bool) : (s.setRstEn x).inputs = s.inputs := rfl
@[simp] theorem State.setRstEn_out (s : State) (x : Bool) : (s.setRstEn x).out = s.out := rfl

@[simp] theorem State.setA4b_dev (s : State) (x : Bool) : (s.setA4b x).dev = { s.dev with a4b := x } := rfl
@[simp] theorem State.setA4b_part (s : State) (x : Bool) : (s.setA4b x).part = s.part := rfl
@[simp] theorem State.setA4b_config (s : State) (x : Bool) : (s.setA4b x).config = s.config := rfl
@[simp] theorem State.setA4b_inputs (s : State) (x : Bool) : (s.setA4b x).inputs = s.inputs := rfl
@[simp] theorem State.setA4b_out (s : State) (x : Bool) : (s.setA4b x).out = s.out := rfl

@[simp] theorem State.setAai_dev (s : State) (x : Bool) : (s.setAai x).dev = { s.dev with aai := x } := rfl
@[simp] theorem State.setAai_part (s : State) (x : Bool) : (s.setAai x).part = s.part := rfl
@[simp] theorem State.setAai_config (s : State) (x : Bool) : (s.setAai x).config = s.config := rfl
@[simp] theorem State.setAai_inputs (s : State) (x : Bool) : (s.setAai x).inputs = s.inputs := rfl
@[simp] theorem State.setAai_out (s : State) (x : Bool) : (s.setAai x).out = s.out := rfl

@[simp] theorem State.setEar_dev (s : State) (x : Byte) : (s.setEar x).dev = { s.dev with ear := x } := rfl
@[simp] theorem State.setEar_part (s : State) (x : Byte) : (s.setEar x).part = s.part := rfl
@[simp] theorem State.setEar_config (s : State) (x : Byte) : (s.setEar x).config = s.config := rfl
@[simp] theorem State.setEar_inputs (s : State) (x : Byte) : (s.setEar x).inputs = s.inputs := rfl
@[simp] theorem State.setEar_out (s : State) (x : Byte) : (s.setEar x).out = s.out := rfl

@[simp] theorem State.setNvcfg_dev (s : State) (x : BitVec 16) : (s.setNvcfg x).dev = { s.dev with nvcfg := x } := rfl
@[simp] theorem State.setNvcfg_part (s : State) (x : BitVec 16) : (s.setNvcfg x).part = s.part := rfl
@[simp] theorem State.setNvcfg_config (s : State) (x : BitVec 16) : (s.setNvcfg x).config = s.config := rfl
@[simp] theorem State.setNvcfg_inputs (s : State) (x : BitVec 16) : (s.setNvcfg x).inputs = s.inputs := rfl
@[simp] theorem State.setNvcfg_out (s : State) (x : BitVec 16) : (s.setNvcfg x).out = s.out := rfl

@[simp] theorem State.setVcfg_dev (s : State) (x : Byte) : (s.setVcfg x).dev = { s.dev with vcfg := x } := rfl
@[simp] theorem State.setVcfg_part (s : State) (x : Byte) : (s.setVcfg x).part = s.part := rfl
@[simp] theorem State.setVcfg_config (s : State) (x : Byte) : (s.setVcfg x).config = s.config := rfl
@[simp] theorem State.setVcfg_inputs (s : State) (x : Byte) : (s.setVcfg x).inputs = s.inputs := rfl
@[simp] theorem State.setVcfg_out (s : State) (x : Byte) : (s.setVcfg x).out = s.out := rfl

@[simp] theorem State.setEvcfg_dev (s : State) (x : Byte) : (s.setEvcfg x).dev = { s.dev with evcfg := x } := rfl
@[simp] theorem State.setEvcfg_part (s : State) (x : Byte) : (s.setEvcfg x).part = s.part := rfl
@[simp] theorem State.setEvcfg_config (s : State) (x : Byte) : (s.setEvcfg x).config = s.config := rfl
@[simp] theorem State.setEvcfg_inputs (s : State) (x : Byte) : (s.setEvcfg x).inputs = s.inputs := rfl
@[simp] theorem State.setEvcfg_out (s : State) (x : Byte) : (s.setEvcfg x).out = s.out := rfl

@[simp] theorem State.setMem_dev (s : State) (x : Memory) : (s.setMem x).dev = { s.dev with mem := x } := rfl
@[simp] theorem State.setMem_part (s : State) (x : Memory) : (s.setMem x).part = s.part := rfl
@[simp] theorem State.setMem_config (s : State) (x : Memory) : (s.setMem x).config = s.config := rfl
@[simp] theorem State.setMem_inputs (s : State) (x : Memory) : (s.setMem x).inputs = s.inputs := rfl
@[simp] theorem State.setMem_out (s : State) (x : Memory) : (s.setMem x).out = s.out := rfl

@[simp] theorem State.setDirty_dev (s : State) (x : Option Nat) : (s.setDirty x).dev = { s.dev with dirty := x } := rfl
@[simp] theorem State.setDirty_part (s : State) (x : Option Nat) : (s.setDirty x).part = s.part := rfl
@[simp] theorem State.setDirty_config (s : State) (x : Option Nat) : (s.setDirty x).config = s.config := rfl
@[simp] theorem State.setDirty_inputs (s : State) (x : Option Nat) : (s.setDirty x).inputs = s.inputs := rfl
@[simp] theorem State.setDirty_out (s : State) (x : Option Nat) : (s.setDirty x).out = s.out := rfl

@[simp] theorem State.setDummy_dev (s : State) (c n : Nat) : (s.setDummy c n).dev = { s.dev with dummyCount := c, dummyTarget := n } := rfl
@[simp] theorem State.setDummy_part (s : State) (c n : Nat) : (s.setDummy c n).part = s.part := rfl
@[simp] theorem State.setDummy_config (s : State) (c n : Nat) : (s.setDummy c n).config = s.config := rfl
@[simp] theorem State.setDummy_inputs (s : State) (c n : Nat) : (s.setDummy c n).inputs = s.inputs := rfl
@[simp] theorem State.setDummy_out (s : State) (c n : Nat) : (s.setDummy c n).out = s.out := rfl

@[simp] theorem State.setDev_dev (s : State) (d : Device) : (s.setDev d).dev = d := rfl
@[simp] theorem State.setDev_part (s : State) (d : Device) : (s.setDev d).part = s.part := rfl
@[simp] theorem State.setDev_config (s : State) (d : Device) : (s.setDev d).config = s.config := rfl
@[simp] theorem State.setDev_inputs (s : State) (d : Device) : (s.setDev d).inputs = s.inputs := rfl
@[simp] theorem State.setDev_out (s : State) (d : Device) : (s.setDev d).out = s.out := rfl

@[simp] theorem State.beginCommand_dev (s : State) (b : Byte) (h : Lines) : (s.beginCommand b h).dev = { s.dev with cmd := b, widthHint := h } := rfl
@[simp] theorem State.beginCommand_part (s : State) (b : Byte) (h : Lines) : (s.beginCommand b h).part = s.part := rfl
@[simp] theorem State.beginCommand_config (s : State) (b : Byte) (h : Lines) : (s.beginCommand b h).config = s.config := rfl
@[simp] theorem State.beginCommand_inputs (s : State) (b : Byte) (h : Lines) : (s.beginCommand b h).inputs = s.inputs := rfl
@[simp] theorem State.beginCommand_out (s : State) (b : Byte) (h : Lines) : (s.beginCommand b h).out = s.out := rfl

@[simp] theorem State.startCollect_dev (s : State) (n : Nat) : (s.startCollect n).dev = { s.dev with need := n, pbuf := [], seq := .collectingParams } := rfl
@[simp] theorem State.startCollect_part (s : State) (n : Nat) : (s.startCollect n).part = s.part := rfl
@[simp] theorem State.startCollect_config (s : State) (n : Nat) : (s.startCollect n).config = s.config := rfl
@[simp] theorem State.startCollect_inputs (s : State) (n : Nat) : (s.startCollect n).inputs = s.inputs := rfl
@[simp] theorem State.startCollect_out (s : State) (n : Nat) : (s.startCollect n).out = s.out := rfl

@[simp] theorem State.pushParam_dev (s : State) (b : Byte) : (s.pushParam b).dev = { s.dev with pbuf := s.dev.pbuf ++ [b] } := rfl
@[simp] theorem State.pushParam_part (s : State) (b : Byte) : (s.pushParam b).part = s.part := rfl
@[simp] theorem State.pushParam_config (s : State) (b : Byte) : (s.pushParam b).config = s.config := rfl
@[simp] theorem State.pushParam_inputs (s : State) (b : Byte) : (s.pushParam b).inputs = s.inputs := rfl
@[simp] theorem State.pushParam_out (s : State) (b : Byte) : (s.pushParam b).out = s.out := rfl

@[simp] theorem State.clearParams_dev (s : State) : s.clearParams.dev = { s.dev with pbuf := [], need := 0 } := rfl
@[simp] theorem State.clearParams_part (s : State) : s.clearParams.part = s.part := rfl
@[simp] theorem State.clearParams_config (s : State) : s.clearParams.config = s.config := rfl
@[simp] theorem State.clearParams_inputs (s : State) : s.clearParams.inputs = s.inputs := rfl
@[simp] theorem State.clearParams_out (s : State) : s.clearParams.out = s.out := rfl

@[simp] theorem State.loadResponse_dev (s : State) (bs : List Byte) (c : Bool) : (s.loadResponse bs c).dev = { s.dev with rbuf := bs, rpos := 0, rcyclic := c, seq := .streamingResponse } := rfl
@[simp] theorem State.loadResponse_part (s : State) (bs : List Byte) (c : Bool) : (s.loadResponse bs c).part = s.part := rfl
@[simp] theorem State.loadResponse_config (s : State) (bs : List Byte) (c : Bool) : (s.loadResponse bs c).config = s.config := rfl
@[simp] theorem State.loadResponse_inputs (s : State) (bs : List Byte) (c : Bool) : (s.loadResponse bs c).inputs = s.inputs := rfl
@[simp] theorem State.loadResponse_out (s : State) (bs : List Byte) (c : Bool) : (s.loadResponse bs c).out = s.out := rfl

@[simp] theorem State.resetDecode_dev (s : State) : s.resetDecode.dev = { s.dev with seq := .idle, pbuf := [], need := 0, rbuf := [], rpos := 0, rcyclic := false, dummyCount := 0, dummyTarget := 0, widthHint := .one } := rfl
@[simp] theorem State.resetDecode_part (s : State) : s.resetDecode.part = s.part := rfl
@[simp] theorem State.resetDecode_config (s : State) : s.resetDecode.config = s.config := rfl
@[simp] theorem State.resetDecode_inputs (s : State) : s.resetDecode.inputs = s.inputs := rfl
@[simp] theorem State.resetDecode_out (s : State) : s.resetDecode.out = s.out := rfl

@[simp] theorem State.computeTarget_dev (s : State) (a : Addr) : (s.computeTarget a).dev = { s.dev with cur := s.target a * 8 } := rfl
@[simp] theorem State.computeTarget_part (s : State) (a : Addr) : (s.computeTarget a).part = s.part := rfl
@[simp] theorem State.computeTarget_config (s : State) (a : Addr) : (s.computeTarget a).config = s.config := rfl
@[simp] theorem State.computeTarget_inputs (s : State) (a : Addr) : (s.computeTarget a).inputs = s.inputs := rfl
@[simp] theorem State.computeTarget_out (s : State) (a : Addr) : (s.computeTarget a).out = s.out := rfl

@[simp] theorem State.advance_dev (s : State) (w : Nat) : (s.advance w).dev = { s.dev with cur := (s.dev.cur + w) % s.part.capBits } := rfl
@[simp] theorem State.advance_part (s : State) (w : Nat) : (s.advance w).part = s.part := rfl
@[simp] theorem State.advance_config (s : State) (w : Nat) : (s.advance w).config = s.config := rfl
@[simp] theorem State.advance_inputs (s : State) (w : Nat) : (s.advance w).inputs = s.inputs := rfl
@[simp] theorem State.advance_out (s : State) (w : Nat) : (s.advance w).out = s.out := rfl

@[simp] theorem State.setRx_out (s : State) (v : Byte) : (s.setRx v).out = { s.out with rx := some v } := rfl
@[simp] theorem State.setRx_part (s : State) (v : Byte) : (s.setRx v).part = s.part := rfl
@[simp] theorem State.setRx_config (s : State) (v : Byte) : (s.setRx v).config = s.config := rfl
@[simp] theorem State.setRx_inputs (s : State) (v : Byte) : (s.setRx v).inputs = s.inputs := rfl
@[simp] theorem State.setRx_dev (s : State) (v : Byte) : (s.setRx v).dev = s.dev := rfl

@[simp] theorem State.raise_out (s : State) (w : Warning) : (s.raise w).out = { s.out with warns := s.out.warns ++ [w] } := rfl
@[simp] theorem State.raise_part (s : State) (w : Warning) : (s.raise w).part = s.part := rfl
@[simp] theorem State.raise_config (s : State) (w : Warning) : (s.raise w).config = s.config := rfl
@[simp] theorem State.raise_inputs (s : State) (w : Warning) : (s.raise w).inputs = s.inputs := rfl
@[simp] theorem State.raise_dev (s : State) (w : Warning) : (s.raise w).dev = s.dev := rfl

@[simp] theorem State.emit_out (s : State) (off n : Nat) : (s.emit off n).out = { s.out with sinks := s.out.sinks ++ [sinkRecord s.dev.mem off n] } := rfl
@[simp] theorem State.emit_part (s : State) (off n : Nat) : (s.emit off n).part = s.part := rfl
@[simp] theorem State.emit_config (s : State) (off n : Nat) : (s.emit off n).config = s.config := rfl
@[simp] theorem State.emit_inputs (s : State) (off n : Nat) : (s.emit off n).inputs = s.inputs := rfl
@[simp] theorem State.emit_dev (s : State) (off n : Nat) : (s.emit off n).dev = s.dev := rfl

@[simp] theorem State.emitPage_out (s : State) (q : Nat) : (s.emitPage q).out = { s.out with sinks := s.out.sinks ++ [sinkRecord s.dev.mem (q * s.part.pageSize) s.part.pageSize] } := rfl
@[simp] theorem State.emitPage_part (s : State) (q : Nat) : (s.emitPage q).part = s.part := rfl
@[simp] theorem State.emitPage_config (s : State) (q : Nat) : (s.emitPage q).config = s.config := rfl
@[simp] theorem State.emitPage_inputs (s : State) (q : Nat) : (s.emitPage q).inputs = s.inputs := rfl
@[simp] theorem State.emitPage_dev (s : State) (q : Nat) : (s.emitPage q).dev = s.dev := rfl

@[simp] theorem State.setPart_part (s : State) (p : Part) : (s.setPart p).part = p := rfl
@[simp] theorem State.setPart_config (s : State) (p : Part) : (s.setPart p).config = s.config := rfl
@[simp] theorem State.setPart_dev (s : State) (p : Part) : (s.setPart p).dev = s.dev := rfl
@[simp] theorem State.setPart_inputs (s : State) (p : Part) : (s.setPart p).inputs = s.inputs := rfl
@[simp] theorem State.setPart_out (s : State) (p : Part) : (s.setPart p).out = s.out := rfl

@[simp] theorem State.accept_dev (s : State) (r : List Event) : (s.accept r).dev = s.dev := rfl
@[simp] theorem State.accept_part (s : State) (r : List Event) : (s.accept r).part = s.part := rfl
@[simp] theorem State.accept_config (s : State) (r : List Event) : (s.accept r).config = s.config := rfl
@[simp] theorem State.accept_inputs (s : State) (r : List Event) : (s.accept r).inputs = r := rfl
@[simp] theorem State.accept_out (s : State) (r : List Event) : (s.accept r).out = Output.empty := rfl

@[simp] theorem State.resetRegisters_part (s : State) : s.resetRegisters.part = s.part := rfl
@[simp] theorem State.resetRegisters_config (s : State) : s.resetRegisters.config = s.config := rfl
@[simp] theorem State.resetRegisters_inputs (s : State) : s.resetRegisters.inputs = s.inputs := rfl
@[simp] theorem State.resetRegisters_out (s : State) : s.resetRegisters.out = s.out := rfl

@[simp] theorem State.acceptOpcode_config (s : State) (b : Byte) (op : Op) : (s.acceptOpcode b op).config = s.config := by
  unfold State.acceptOpcode State.clearResetEnable; split <;> rfl
@[simp] theorem State.acceptOpcode_part (s : State) (b : Byte) (op : Op) : (s.acceptOpcode b op).part = s.part := by
  unfold State.acceptOpcode State.clearResetEnable; split <;> rfl
@[simp] theorem State.acceptOpcode_inputs (s : State) (b : Byte) (op : Op) : (s.acceptOpcode b op).inputs = s.inputs := by
  unfold State.acceptOpcode State.clearResetEnable; split <;> rfl
@[simp] theorem State.acceptOpcode_out (s : State) (b : Byte) (op : Op) : (s.acceptOpcode b op).out = s.out := by
  unfold State.acceptOpcode State.clearResetEnable; split <;> rfl
@[simp] theorem State.acceptOpcode_dev (s : State) (b : Byte) (op : Op) :
    (s.acceptOpcode b op).dev = { s.dev with
      cmd := b, widthHint := hintOf op
      rstEn := if opOfByte s.config b = some .resetMemory then s.dev.rstEn else false } := by
  unfold State.acceptOpcode State.clearResetEnable; split <;> simp_all

/-- A byte of the block's storage is read from its list with the erased value of the configuration. -/
theorem State.memRead_eq (s : State) (a : Nat) : s.memRead a = Memory.read s.config.erased s.dev.mem a := rfl

@[simp] theorem State.mode_config (s : State) : s.mode.config = s.config := rfl
@[simp] theorem State.mode_a4b (s : State) : s.mode.a4b = s.dev.a4b := rfl
@[simp] theorem State.mode_aai (s : State) : s.mode.aai = s.dev.aai := rfl
@[simp] theorem State.mode_variant (s : State) : s.mode.variant = s.part.variant := rfl

@[simp] theorem andThen_next (s : State) (f : State → State) : andThen (.next s) f = .next (f s) := rfl
@[simp] theorem andThen_fault (r : Fault) (f : State → State) : andThen (.fault r) f = .fault r := rfl
@[simp] theorem andThen_refused (r : Refusal) (f : State → State) : andThen (.refused r) f = .refused r := rfl

@[simp] theorem Output.empty_rx : Output.empty.rx = none := rfl
@[simp] theorem Output.empty_warns : Output.empty.warns = [] := rfl
@[simp] theorem Output.empty_sinks : Output.empty.sinks = [] := rfl
@[simp] theorem Output.empty_blob : Output.empty.blob = none := rfl

end Sys2Proof.Machine
end

