-- ==== Sys2Proof/Laws/Ops.lean ====
section
/-! SUPPORT. One lemma for each shared operation that says once everything it does, to be cited instead of unfolding it. -/

namespace Sys2Proof.Machine

/-! ### Dirty page (R83) -/

/-- `MarkDirty(p)`: the page becomes dirty, and another page that was dirty is written back first. -/
theorem State.markDirty_eq (s : State) (p : Nat) :
    s.markDirty p = { s with
      dev := { s.dev with dirty := some p }
      out := { s.out with sinks := s.out.sinks ++ match s.dev.dirty with
        | some q => if q = p then [] else [sinkRecord s.dev.mem (q * s.part.pageSize) s.part.pageSize]
        | none => [] } } := by
  unfold State.markDirty
  cases h : s.dev.dirty with
  | none => simp [State.setDirty]
  | some q => by_cases hq : q = p <;> simp [hq, State.setDirty, State.emitPage, State.emit]

/-- `FlushDirty()`: no page is dirty after it, and the page that was is written back. -/
theorem State.flushDirty_eq (s : State) :
    s.flushDirty = { s with
      dev := { s.dev with dirty := none }
      out := { s.out with sinks := s.out.sinks ++
        s.dev.dirty.toList.map (fun q => sinkRecord s.dev.mem (q * s.part.pageSize) s.part.pageSize) } } := by
  unfold State.flushDirty
  cases h : s.dev.dirty with
  | none =>
    obtain ⟨c, p, d, i, o⟩ := s
    simp only at h
    cases d
    simp_all
  | some q => simp [State.setDirty, State.emitPage, State.emit]

/-! ### Shared endings of the commands -/

/-- `EnterRead(op)` (R134): READ at once, or a wait for the requirement. -/
theorem State.enterRead_eq (s : State) (op : Op) :
    s.enterRead op = { s with
      dev := if s.config.dummyUnits op s.dev.vcfg s.part = 0 then { s.dev with seq := .read } else
        { s.dev with seq := .dummyWait, dummyCount := 0, dummyTarget := s.config.dummyUnits op s.dev.vcfg s.part } } := by
  unfold State.enterRead State.enterReadAfter
  by_cases h : s.config.dummyUnits op s.dev.vcfg s.part = 0
  · simp [h, State.setSeq]
  · have : 0 < s.config.dummyUnits op s.dev.vcfg s.part := by omega
    simp [h, this, State.setSeq, State.setDummy]

/-- `ConfigWrite` (R175). -/
theorem State.configWrite_eq (s : State) (write : State → State) :
    s.configWrite write = (if s.dev.wel then write s else s).setSeq .idle := rfl

/-- `Erase` (R225) with its target, when the write-enable latch is set. -/
theorem State.eraseAt_enabled (s : State) (t len : Nat) (c : EraseCap) (h : s.dev.wel = true) :
    s.eraseAt t len c = { s with
      dev := { s.dev with
        seq := .idle, mem := s.dev.mem.erase (eraseRange s.part t len).1 (eraseRange s.part t len).2 }
      out := { s.out with
        warns := s.out.warns ++ (if s.part.advertises c then [] else [.eraseUnsupported s.dev.cmd])
        sinks := s.out.sinks ++ [sinkRecord (s.dev.mem.erase (eraseRange s.part t len).1 (eraseRange s.part t len).2)
          (eraseRange s.part t len).1 ((eraseRange s.part t len).2 - (eraseRange s.part t len).1)] } } := by
  unfold State.eraseAt State.warnUnsupported
  by_cases hc : s.part.advertises c <;> simp [h, hc, State.eraseBytes, State.setSeq, State.setMem, State.emit, State.raise]

/-- `Erase` (R225) without write-enable: W2 and nothing else. -/
theorem State.eraseAt_blocked (s : State) (t len : Nat) (c : EraseCap) (h : s.dev.wel = false) :
    s.eraseAt t len c = { s with
      dev := { s.dev with seq := .idle }
      out := { s.out with warns := s.out.warns ++ [.writeDisabled (.erase s.dev.cmd)] } } := by
  unfold State.eraseAt
  simp [h, State.setSeq, State.raise]

/-- An erase never ends before it begins, and stays inside the storage. -/
theorem eraseRange_bounds (p : Part) (t len : Nat) (ht : t < p.cap) :
    (eraseRange p t len).1 ≤ (eraseRange p t len).2 ∧ (eraseRange p t len).2 ≤ p.cap := by
  unfold eraseRange
  have := Nat.mod_le t len
  constructor <;> simp only <;> omega

/-! ### The address operand, and the commands that take one -/

/-- The target of a 3-byte address (R79, R80). -/
theorem State.target_a3 (s : State) (v : BitVec 24) :
    s.target (.a3 v) =
      (v.toNat + s.config.bankSize * (s.dev.ear &&& s.config.bankMask).toNat) % (s.part.sectorSize * s.part.sectorCount) := rfl

/-- The target of a 4-byte address (R79, R80). -/
theorem State.target_a4 (s : State) (v : BitVec 32) :
    s.target (.a4 v) = v.toNat % (s.part.sectorSize * s.part.sectorCount) := by
  simp only [State.target, targetOf, addrNat, bankOffset, Part.cap, Nat.add_zero]

/-- Under the mask and the bank size of the spec, seven bits of the bank register extend an address by 16 MiB each (R7, R80). -/
theorem bankOffset_spec (e : Byte) (v : BitVec 24) : bankOffset Config.spec e (.a3 v) = 16777216 * (e.toNat % 128) := by
  have h : (e &&& Config.spec.bankMask).toNat = e.toNat % 128 := by
    rw [BitVec.toNat_and]
    exact Nat.and_two_pow_sub_one_eq_mod e.toNat 7
  simp only [bankOffset, h]
  rfl

/-- A part of positive sizes reduces every address into the storage (R79, R88). -/
theorem State.target_lt (s : State) (a : Addr) (h : s.part.Wf) : s.target a < s.part.cap :=
  Nat.mod_lt _ (Nat.mul_pos h.2.1 h.2.2.1)

/-- `EnterRead(op)` after the cursor has been set (R133, R134). -/
theorem State.setCur_enterRead_eq (s : State) (n : Nat) (op : Op) :
    (s.setCur n).enterRead op = { s with
      dev := if s.config.dummyUnits op s.dev.vcfg s.part = 0 then { s.dev with cur := n, seq := .read } else
        { s.dev with
          cur := n, seq := .dummyWait, dummyCount := 0, dummyTarget := s.config.dummyUnits op s.dev.vcfg s.part } } := by
  rw [State.enterRead_eq]
  rfl

/-- The common action of the reads (R133, R134). -/
theorem State.readCommand_eq (s : State) (op : Op) (a : Addr) :
    s.readCommand op a = { s with
      dev := if s.config.dummyUnits op s.dev.vcfg s.part = 0 then
          { s.dev with cur := s.target a * 8, seq := .read }
        else
          { s.dev with
            cur := s.target a * 8, seq := .dummyWait, dummyCount := 0
            dummyTarget := s.config.dummyUnits op s.dev.vcfg s.part } } := by
  rw [State.readCommand, State.computeTarget, State.setCur_enterRead_eq]

/-- The common action of the program commands (R133). -/
theorem State.programCommand_eq (s : State) (a : Addr) :
    s.programCommand a = { s with
      dev := { s.dev with cur := s.target a * 8, seq := .pageProgram } } := rfl

/-- The common action of the address erases (R133, R225): the erase at the target that was just computed. -/
theorem State.eraseCommand_eq (s : State) (a : Addr) (len : Nat) (c : EraseCap) :
    s.eraseCommand a len c =
      (s.setCur (s.target a * 8)).eraseAt (s.target a) len c := by
  simp only [State.eraseCommand, State.eraseHere, State.computeTarget, State.setCur_dev,
    Nat.mul_div_cancel _ (show 0 < 8 by decide)]

/-! ### Data units -/

/-- The advance keeps the cursor inside the storage (R88). -/
theorem advance_lt (p : Part) (c w : Nat) (h : p.Wf) : (c + w) % p.capBits < p.capBits :=
  Nat.mod_lt _ (Nat.mul_pos (Nat.mul_pos h.2.1 h.2.2.1) (by decide))

/-- An aligned unit lies inside one byte (R75). -/
theorem unit_inside_byte (c w : Nat) (hw : w = 1 ∨ w = 2 ∨ w = 4 ∨ w = 8) (h : c % w = 0) : c % 8 + w ≤ 8 := by
  rcases hw with rfl | rfl | rfl | rfl <;> omega

/-! ### Control -/

/-- What a step that has a next state did: nothing was waiting, or the oldest event was handled. -/
theorem step_next {s t : State} (h : step s = .next t) :
    (s.inputs = [] ∧ t = s.accept []) ∨ ∃ e rest, s.inputs = e :: rest ∧ handle e (s.accept rest) = .next t := by
  unfold step stepOnce at h
  split at h
  · rename_i hi; cases h; exact .inl ⟨hi, rfl⟩
  · rename_i e rest hi; exact .inr ⟨e, rest, hi, h⟩

/-- A step with an event waiting handles it. -/
theorem step_waiting {s : State} {e : Event} {rest : List Event} (h : s.Waiting e rest) :
    step s = handle e (s.accept rest) := by
  unfold step stepOnce
  rw [h]

/-- A run whose first step has a next state goes on from there. -/
theorem run_next {s t : State} (n : Nat) (h : step s = .next t) :
    Host.Core.run Sys2Proof.core (n + 1) s = Host.Core.run Sys2Proof.core n t := by
  have key : ∀ (M : Host.Core) (u v : M.State), M.step u = .next v → M.run (n + 1) u = M.run n v := by
    intro M u v hc
    simp only [Host.Core.run, hc]
  exact key Sys2Proof.core s t h

/-- A run of no step. -/
theorem run_zero (s : State) : Host.Core.run Sys2Proof.core 0 s = .next s := rfl

/-- What the decoder did with a byte that has a next state (R131). -/
theorem decodeOpcode_next {b : Byte} {s t : State} (h : decodeOpcode b s = .next t) :
    (opOfByte s.config b = none ∧ t = (s.clearResetEnable b).raise (.unknownOpcode b)) ∨
    (∃ op i, opOfByte s.config b = some op ∧ needOf s.mode op = 0 ∧ instrOfParams op 0 [] = some i ∧
      exec i (s.acceptOpcode b op) = .next t) ∨
    ∃ op, opOfByte s.config b = some op ∧ needOf s.mode op ≠ 0 ∧
      t = (s.acceptOpcode b op).startCollect (needOf s.mode op) := by
  unfold decodeOpcode at h
  split at h
  · rename_i ho; cases h; exact .inl ⟨ho, rfl⟩
  · rename_i op ho
    split at h
    · rename_i hn
      split at h
      · rename_i i hi; exact .inr (.inl ⟨op, i, ho, hn, hi, h⟩)
      · cases h
    · rename_i hn; cases h; exact .inr (.inr ⟨op, ho, hn, rfl⟩)

/-- What the collector did with a byte that has a next state (R132). -/
theorem collect_next {b : Byte} {s t : State} (h : collect b s = .next t) :
    ((s.pushParam b).dev.pbuf.length = s.dev.need ∧
      ∃ i u, (s.pushParam b).commandInFlight = some i ∧ exec i (s.pushParam b) = .next u ∧ t = u.clearParams) ∨
    ((s.pushParam b).dev.pbuf.length ≠ s.dev.need ∧ t = s.pushParam b) := by
  unfold collect runIfComplete at h
  by_cases hl : (s.pushParam b).dev.pbuf.length = (s.pushParam b).dev.need
  · refine .inl ⟨hl, ?_⟩
    simp only [if_pos hl] at h
    cases hi : (s.pushParam b).commandInFlight with
    | none => simp [hi] at h
    | some i =>
      simp only [hi] at h
      cases hx : exec i (s.pushParam b) with
      | next u => rw [hx] at h; cases h; exact ⟨i, u, rfl, hx, rfl⟩
      | fault r => rw [hx] at h; cases h
      | refused r => rw [hx] at h; cases h
  · simp only [if_neg hl] at h; cases h; exact .inr ⟨hl, rfl⟩

/-- What a transfer that has a next state did (R130). -/
theorem transfer_next {tx w : Nat} {s t : State} (h : transfer tx w s = .next t) :
    ValidUnit tx w ∧
    ((s.dev.seq = .idle ∧ w = 8 ∧ decodeOpcode (BitVec.ofNat 8 tx) s = .next t) ∨
     (s.dev.seq = .collectingParams ∧ w = 8 ∧ collect (BitVec.ofNat 8 tx) s = .next t) ∨
     (s.dev.seq = .streamingResponse ∧ w = 8 ∧ streamUnit s = .next t) ∨
     (s.dev.seq = .pageProgram ∧ s.dev.cur % w = 0 ∧ programUnit (BitVec.ofNat 8 tx) w s = .next t) ∨
     (s.dev.seq = .read ∧ s.dev.cur % w = 0 ∧ readUnit w s = .next t) ∨
     (s.dev.seq = .dummyWait ∧ dummyUnit s = .next t)) := by
  unfold transfer at h
  split at h
  · rename_i hv
    refine ⟨hv, ?_⟩
    split at h <;> rename_i hs <;> (try split at h) <;> simp_all
  · cases h

/-- `StreamUnit()` (R247). -/
theorem streamUnit_next {s t : State} (h : streamUnit s = .next t) :
    ∃ v, s.dev.rbuf[s.dev.rpos]? = some v ∧ t = { s with out := { s.out with rx := some v }, dev := s.dev.afterStream } := by
  unfold streamUnit at h
  split at h
  · cases h
  · rename_i v hv; cases h; exact ⟨v, hv, rfl⟩

/-- `DummyUnit()` (R248). -/
theorem dummyUnit_eq (s : State) :
    dummyUnit s = .next { s with dev :=
      if s.dev.dummyTarget ≤ s.dev.dummyCount + 1 then { s.dev with seq := .read, dummyCount := 0, dummyTarget := 0 }
      else { s.dev with dummyCount := s.dev.dummyCount + 1 } } := by
  unfold dummyUnit
  split <;> simp [State.setDummy, State.setSeq, *]

/-- `ReadUnit(w)` (R246). -/
theorem readUnit_next {w : Nat} {s t : State} (h : readUnit w s = .next t) :
    s.dev.cur / 8 < s.part.cap ∧
      t = { s with
        out := { s.out with rx := some (unitAt (s.memRead (s.dev.cur / 8)) (s.dev.cur % 8) w) }
        dev := { s.dev with cur := (s.dev.cur + w) % s.part.capBits } } := by
  unfold readUnit at h
  simp only at h
  split at h
  · cases h
  · rename_i hc; cases h; exact ⟨by omega, rfl⟩

/-- `ProgramUnit(tx, w)` (R245), all that it does. -/
theorem programUnit_next {tx : Byte} {w : Nat} {s t : State} (h : programUnit tx w s = .next t) :
    s.dev.cur / 8 < s.part.cap ∧ t.config = s.config ∧ t.part = s.part ∧ t.inputs = s.inputs ∧
    let a := s.dev.cur / 8
    let o := s.dev.cur % 8
    let old := s.memRead a
    let fold := unitAt old o w
    t.dev = { s.dev with
        cur := (s.dev.cur + w) % s.part.capBits
        dirty := if s.dev.wel then some (a / s.part.pageSize) else s.dev.dirty
        mem := if s.dev.wel then
            Memory.write s.config.erased s.dev.mem a (withUnit old o w (if s.part.overwrite then tx else fold &&& tx))
          else s.dev.mem } ∧
    t.out = { s.out with
      warns := s.out.warns ++
        if s.dev.wel then (if ~~~fold &&& tx &&& unitMask w ≠ 0#8 then [.zeroToOne a old tx] else [])
        else [.writeDisabled (.program a)]
      sinks := s.out.sinks ++
        if s.dev.wel then
          match s.dev.dirty with
          | some q => if q = a / s.part.pageSize then []
              else [sinkRecord s.dev.mem (q * s.part.pageSize) s.part.pageSize]
          | none => []
        else [] } := by
  unfold programUnit at h
  simp only at h
  split at h
  · cases h
  · rename_i hc
    refine ⟨by omega, ?_⟩
    by_cases hw : s.dev.wel = true
    · rw [if_pos hw] at h
      cases h
      unfold State.programByte State.warnZeroToOne
      simp only [State.markDirty_eq]
      split
      · rename_i hz; simp [hw, hz]
      · rename_i hz; simp [hw]; cases s.dev.dirty <;> rfl
    · rw [if_neg hw] at h
      cases h
      simp [hw]

/-- `Select(asserted)` (R249). -/
theorem select_eq (b : Bool) (s : State) :
    select b s = .next { s with
      dev := { s.resetDecode.dev with dirty := if b then s.dev.dirty else none }
      out := { s.out with sinks := s.out.sinks ++ if b then [] else
        s.dev.dirty.toList.map (fun q => sinkRecord s.dev.mem (q * s.part.pageSize) s.part.pageSize) } } := by
  unfold select
  cases b
  · simp [State.flushDirty_eq]
  · simp [State.resetDecode]

/-- `SetBusWidth(l)` (R250) with an accepted number of lines. -/
theorem setBusWidth_next {l : Nat} {s t : State} (h : setBusWidth l s = .next t) :
    ∃ new, Lines.ofNat? l = some new ∧ t = { s with dev := s.dev.withLines s.config.dummyRound new } := by
  unfold setBusWidth at h
  split at h
  · cases h
  · rename_i new hn; cases h; exact ⟨new, hn, rfl⟩

/-- `PowerOn(P, seed)` (R310). -/
theorem powerOn_next {p : Part} {seed : Option Memory} {s t : State} (h : powerOn p seed s = .next t) :
    p.Wf ∧ t = ((s.setPart p).setDev (attached s.config p seed)).resetRegisters := by
  unfold powerOn at h
  split at h
  · rename_i hp; cases h; exact ⟨hp, rfl⟩
  · cases h

/-- `Snapshot()` (R46). -/
theorem snapshot_eq (s : State) :
    snapshot s = .next { s with
      dev := { s.dev with dirty := none }
      out := { s.out with
        sinks := s.out.sinks ++
          s.dev.dirty.toList.map (fun q => sinkRecord s.dev.mem (q * s.part.pageSize) s.part.pageSize)
        blob := some { part := s.part, dev := { s.dev with dirty := none } } } } := by
  unfold snapshot State.capture
  simp [State.flushDirty_eq]

/-- `Restore(blob)` (R46). -/
theorem restore_next {b : Blob} {s t : State} (h : restore b s = .next t) :
    b.Acceptable s.config s.part ∧ t = s.setDev b.dev := by
  unfold restore at h
  split at h
  · rename_i hb; cases h; exact ⟨hb, rfl⟩
  · cases h

end Sys2Proof.Machine
end

