-- ==== Sys2Proof/Laws/PerInstr.lean ====
section
/-! SUPPORT. A law of every command, one lemma for each constructor: what goes over the bus for it. -/

namespace Sys2Proof.Laws

/-- In a mode that the command can be sent in, its encoding is its opcode byte and then as many parameter bytes as the decoder
asks for (R100, R103, R105). -/
def EncodesOpcodeThenParams.Statement (i : Instr) : Prop :=
  ∀ m : DecodeMode, i.wellFormed m = true →
    ∃ b, byteOfOp m.config i.op = some b ∧ (encode m.config i).head? = some b ∧
      (encode m.config i).length = 1 + needOf m i.op

namespace EncodesOpcodeThenParams

/-- The law for a command whose parameters have the length that the decoder asks for. -/
theorem of_params {i : Instr}
    (h : ∀ m : DecodeMode, i.formed m = true → i.params.length = needOf m i.op) : Statement i := by
  intro m hw
  obtain ⟨hb, hf⟩ := Bool.and_eq_true_iff.mp hw
  obtain ⟨b, hb⟩ := Option.isSome_iff_exists.mp hb
  refine ⟨b, hb, by simp [encode, hb], ?_⟩
  simp only [encode, hb, Option.toList_some, List.length_append, List.length_singleton, h m hf]

/-- The law for a command with an address field in the mode's length. -/
theorem of_addr {i : Instr} (a : Addr) (hp : i.params = a.bytes) (hw : ∀ m, i.formed m = a.fits m)
    (hn : ∀ m, needOf m i.op = if m.a4b then 4 else 3) : Statement i := by
  refine of_params (fun m h => ?_)
  rw [hw] at h
  rw [hp, hn, Addr.bytes_length]
  cases a <;> simp_all [Addr.fits]

/-- The law for a command with an address field in the mode's length and mode/dummy bytes. -/
theorem of_addr_mode {i : Instr} (a : Addr) (x : List Byte) (n : Config → PerVariant) (hp : i.params = a.bytes ++ x)
    (hw : ∀ m, i.formed m = (a.fits m && decide (x.length = (n m.config).get m.variant)))
    (hn : ∀ m, needOf m i.op = (if m.a4b then 4 else 3) + (n m.config).get m.variant) : Statement i := by
  refine of_params (fun m h => ?_)
  rw [hw] at h
  rw [hp, hn, List.length_append, Addr.bytes_length]
  cases a <;> simp_all [Addr.fits]

theorem wrsr (db0 : Byte) : Statement (.wrsr db0) :=
  of_params (fun _ _ => rfl)
theorem pp (a : Addr) : Statement (.pp a) :=
  of_addr a rfl (fun _ => rfl) (fun m => by cases m; rfl)
theorem read (a : Addr) : Statement (.read a) :=
  of_addr a rfl (fun _ => rfl) (fun m => by cases m; rfl)
theorem wrdi : Statement (.wrdi) :=
  of_params (fun _ _ => rfl)
theorem rdsr : Statement (.rdsr) :=
  of_params (fun _ _ => rfl)
theorem wren : Statement (.wren) :=
  of_params (fun _ _ => rfl)
theorem fastRead (a : Addr) : Statement (.fastRead a) :=
  of_addr a rfl (fun _ => rfl) (fun m => by cases m; rfl)
theorem fastRead4 (a : BitVec 32) : Statement (.fastRead4 a) :=
  of_params (fun _ _ => rfl)
theorem pp4 (a : BitVec 32) : Statement (.pp4 a) :=
  of_params (fun _ _ => rfl)
theorem read4 (a : BitVec 32) : Statement (.read4 a) :=
  of_params (fun _ _ => rfl)
theorem brrd : Statement (.brrd) :=
  of_params (fun _ _ => rfl)
theorem brwr (db0 : Byte) : Statement (.brwr db0) :=
  of_params (fun _ _ => rfl)
theorem erase4k (a : Addr) : Statement (.erase4k a) :=
  of_addr a rfl (fun _ => rfl) (fun m => by cases m; rfl)
theorem erase4_4k (a : BitVec 32) : Statement (.erase4_4k a) :=
  of_params (fun _ _ => rfl)
theorem qpp (a : Addr) : Statement (.qpp a) :=
  of_addr a rfl (fun _ => rfl) (fun m => by cases m; rfl)
theorem dor (a : Addr) : Statement (.dor a) :=
  of_addr a rfl (fun _ => rfl) (fun m => by cases m; rfl)
theorem dor4 (a : BitVec 32) : Statement (.dor4 a) :=
  of_params (fun _ _ => rfl)
theorem pp4_4 (a : BitVec 32) : Statement (.pp4_4 a) :=
  of_params (fun _ _ => rfl)
theorem erase32k (a : Addr) : Statement (.erase32k a) :=
  of_addr a rfl (fun _ => rfl) (fun m => by cases m; rfl)
theorem erase4_32k (a : BitVec 32) : Statement (.erase4_32k a) :=
  of_params (fun _ _ => rfl)
theorem bulkErase60 : Statement (.bulkErase60) :=
  of_params (fun _ _ => rfl)
theorem wevcr (db0 : Byte) : Statement (.wevcr db0) :=
  of_params (fun _ _ => rfl)
theorem revcr : Statement (.revcr) :=
  of_params (fun _ _ => rfl)
theorem resetEnable : Statement (.resetEnable) :=
  of_params (fun _ _ => rfl)
theorem qor (a : Addr) : Statement (.qor a) :=
  of_addr a rfl (fun _ => rfl) (fun m => by cases m; rfl)
theorem qor4 (a : BitVec 32) : Statement (.qor4 a) :=
  of_params (fun _ _ => rfl)
theorem readFsr : Statement (.readFsr) :=
  of_params (fun _ _ => rfl)
theorem wvcr (db0 : Byte) : Statement (.wvcr db0) :=
  of_params (fun _ _ => rfl)
theorem rvcr : Statement (.rvcr) :=
  of_params (fun _ _ => rfl)
theorem rdid90 : Statement (.rdid90) :=
  of_params (fun _ _ => rfl)
theorem resetMemory : Statement (.resetMemory) :=
  of_params (fun _ _ => rfl)
theorem jedecRead : Statement (.jedecRead) :=
  of_params (fun _ _ => rfl)
theorem dpp (a : Addr) : Statement (.dpp a) :=
  of_addr a rfl (fun _ => rfl) (fun m => by cases m; rfl)
theorem aaiWp (a : Option (BitVec 24)) : Statement (.aaiWp a) :=
  of_params (fun m h => by
    cases a <;> simp_all [Instr.params, Instr.formed, needOf, formatOf, Instr.op, addrLen])
theorem wnvcr (value : BitVec 16) : Statement (.wnvcr value) :=
  of_params (fun _ _ => rfl)
theorem rnvcr : Statement (.rnvcr) :=
  of_params (fun _ _ => rfl)
theorem en4b : Statement (.en4b) :=
  of_params (fun _ _ => rfl)
theorem dior (a : Addr) (mode : List Byte) : Statement (.dior a mode) :=
  of_addr_mode a mode Config.dioExtra rfl (fun _ => rfl) (fun m => by cases m; rfl)
theorem dior4 (a : BitVec 32) (mode : List Byte) : Statement (.dior4 a mode) :=
  of_params (fun m h => by
    simp_all [Instr.params, Instr.formed, needOf, formatOf, Instr.op, addrLen, fourByteOp, extraLen])
theorem extendAddrWrite (db0 : Byte) : Statement (.extendAddrWrite db0) :=
  of_params (fun _ _ => rfl)
theorem bulkEraseC7 : Statement (.bulkEraseC7) :=
  of_params (fun _ _ => rfl)
theorem extendAddrRead : Statement (.extendAddrRead) :=
  of_params (fun _ _ => rfl)
theorem eraseSector (a : Addr) : Statement (.eraseSector a) :=
  of_addr a rfl (fun _ => rfl) (fun m => by cases m; rfl)
theorem erase4Sector (a : BitVec 32) : Statement (.erase4Sector a) :=
  of_params (fun _ _ => rfl)
theorem ex4b : Statement (.ex4b) :=
  of_params (fun _ _ => rfl)
theorem qior (a : Addr) (mode : List Byte) : Statement (.qior a mode) :=
  of_addr_mode a mode Config.qioExtra rfl (fun _ => rfl) (fun m => by cases m; rfl)
theorem qior4 (a : BitVec 32) (mode : List Byte) : Statement (.qior4 a mode) :=
  of_params (fun m h => by
    simp_all [Instr.params, Instr.formed, needOf, formatOf, Instr.op, addrLen, fourByteOp, extraLen])

end EncodesOpcodeThenParams

end Sys2Proof.Laws
end

