-- ==== Sys2Proof/Tests/Slice0.lean ====
section
/-! SUPPORT. The model's own tests: decoding from written-out bytes, the refusals of WellFormed, single steps against the hand
calculated vectors of 95_test_vectors.md (their numbers stand in the comments), and a witness for the hypotheses of every
obligation that has any. -/

/-- The opcode byte of `op` handled by the decoder, as far as its own writes go. -/
def Sys2Proof.Machine.State.beginOp (s : Sys2Proof.Machine.State) (op : Sys2Proof.Op) : Sys2Proof.Machine.State := s.acceptOpcode ((Sys2Proof.byteOfOp s.config op).getD 0#8) op

namespace Sys2Proof.Tests

open Sys2Proof Sys2Proof.Machine

/-! ### Helpers -/

/-- Part PB of 95_test_vectors.md: 32 MiB, variant `V_NVCFG`. -/
def partPB : Part :=
  { vendorId := 0x20#8, deviceId := 0x19#8, jedecId := 0x20BA19#24, extJedecId := 0x1000#16, pageSize := 256
    sectorSize := 0x10000, sectorCount := 512, er4k := true, er32k := true, qWr1 := false, qEeprom := false
    variant := .nvcfg }

/-- Part PC of 95_test_vectors.md: overwrite polarity, variant `V_MODEBYTE`, no sub-sector erase. -/
def partPC : Part :=
  { vendorId := 0x29#8, deviceId := 0x11#8, jedecId := 0x290011#24, extJedecId := 0x0000#16, pageSize := 32
    sectorSize := 0x1000, sectorCount := 16, er4k := false, er32k := false, qWr1 := false, qEeprom := true
    variant := .modeByte }

/-- Part PD of 95_test_vectors.md: five sectors of 4 KiB. -/
def partPD : Part :=
  { vendorId := 0x01#8, deviceId := 0x02#8, jedecId := 0x010203#24, extJedecId := 0x0000#16, pageSize := 256
    sectorSize := 0x1000, sectorCount := 5, er4k := false, er32k := true, qWr1 := false, qEeprom := false
    variant := .generic }

/-- The block with part PB right after `PowerOn`. -/
def resetPB : State := { State.reset with part := partPB, dev := { State.reset.dev with vcfg := 0x8B#8, evcfg := 0xDF#8 } }

/-- The reset state with the storage and the cursor given, in the state `q`. -/
def at_ (q : Seq) (cur : Nat) (mem : Memory) : State := ((State.reset.setMem mem).setCur cur).setSeq q

/-- A state with the event waiting. -/
def got (s : State) (e : Event) : State := { s with inputs := [e] }

/-- What one step makes of a part of the state. -/
def view {α : Type} (o : Host.Outcome State Fault Refusal) (f : State → α) : Option α :=
  match o with
  | .next s => some (f s)
  | .fault _ => none
  | .refused _ => none

/-- The refusal of a step. -/
def refusal (o : Host.Outcome State Fault Refusal) : Option Refusal :=
  match o with
  | .next _ => none
  | .fault _ => none
  | .refused r => some r

/-- A state with the configuration of the spec meets the invariant when its part and its block do. -/
theorem inv_of {s : State} (hc : s.config = Config.spec) (h : s.part.Wf ∧ s.dev.Wf s.config s.part) : s.Inv :=
  ⟨hc ▸ Config.spec_wf, h⟩

/-- The decode mode with 4-byte addresses on a part with mode bytes. -/
def mode4 : DecodeMode := { config := Config.spec, a4b := true, aai := false, variant := .modeByte }

/-! ### WellFormed refuses ill-formed commands -/

/-- Three address bytes in the 4-byte mode (R102). -/
theorem test_wf_refuses_short_address : (Instr.read (.a3 0#24)).wellFormed mode4 = false := by decide
/-- Four address bytes in the 3-byte mode (R102). -/
theorem test_wf_refuses_long_address : (Instr.eraseSector (.a4 0#32)).wellFormed resetMode = false := by decide
/-- Three mode/dummy bytes after DIOR on `V_GENERIC`, which asks for two (R103). -/
theorem test_wf_refuses_dior_mode : (Instr.dior (.a3 0#24) [0#8, 0#8, 0#8]).wellFormed resetMode = false := by decide
/-- One mode/dummy byte after DIOR4 on `V_GENERIC` (R103). -/
theorem test_wf_refuses_dior4_mode : (Instr.dior4 0#32 [0#8]).wellFormed resetMode = false := by decide
/-- Five mode/dummy bytes after QIOR on `V_MODEBYTE`, which asks for three (R103). -/
theorem test_wf_refuses_qior_mode :
    (Instr.qior (.a4 0#32) [0#8, 0#8, 0#8, 0#8, 0#8]).wellFormed mode4 = false := by decide
/-- No mode/dummy byte after QIOR4 (R103). -/
theorem test_wf_refuses_qior4_mode : (Instr.qior4 0#32 []).wellFormed mode4 = false := by decide
/-- The continue form of AAI_WP outside a sequence (R215). -/
theorem test_wf_refuses_aai_continue : (Instr.aaiWp none).wellFormed resetMode = false := by decide
/-- The begin form of AAI_WP inside a sequence (R215). -/
theorem test_wf_refuses_aai_begin :
    (Instr.aaiWp (some 0#24)).wellFormed { resetMode with aai := true } = false := by decide

/-! ### Decoding, from bytes written out from R101, R103 and R105 -/

theorem test_decode_wren : decode resetMode [0x06#8] = .ok (.wren, []) := by decide
theorem test_decode_wrdi : decode resetMode [0x04#8] = .ok (.wrdi, []) := by decide
theorem test_decode_resetEnable : decode resetMode [0x66#8] = .ok (.resetEnable, []) := by decide
theorem test_decode_resetMemory : decode resetMode [0x99#8] = .ok (.resetMemory, []) := by decide
theorem test_decode_en4b : decode resetMode [0xB7#8] = .ok (.en4b, []) := by decide
theorem test_decode_ex4b : decode resetMode [0xE9#8] = .ok (.ex4b, []) := by decide
theorem test_decode_rdsr : decode resetMode [0x05#8] = .ok (.rdsr, []) := by decide
theorem test_decode_readFsr : decode resetMode [0x70#8] = .ok (.readFsr, []) := by decide
theorem test_decode_brrd : decode resetMode [0x16#8] = .ok (.brrd, []) := by decide
theorem test_decode_extendAddrRead : decode resetMode [0xC8#8] = .ok (.extendAddrRead, []) := by decide
theorem test_decode_jedecRead : decode resetMode [0x9F#8] = .ok (.jedecRead, []) := by decide
theorem test_decode_rdid90 : decode resetMode [0x90#8] = .ok (.rdid90, []) := by decide
theorem test_decode_rnvcr : decode resetMode [0xB5#8] = .ok (.rnvcr, []) := by decide
theorem test_decode_rvcr : decode resetMode [0x85#8] = .ok (.rvcr, []) := by decide
theorem test_decode_revcr : decode resetMode [0x65#8] = .ok (.revcr, []) := by decide
theorem test_decode_bulkEraseC7 : decode resetMode [0xC7#8] = .ok (.bulkEraseC7, []) := by decide
theorem test_decode_bulkErase60 : decode resetMode [0x60#8] = .ok (.bulkErase60, []) := by decide
theorem test_decode_wrsr : decode resetMode [0x01#8, 0xA5#8] = .ok (.wrsr 0xA5#8, []) := by decide
theorem test_decode_wvcr : decode resetMode [0x81#8, 0xA5#8] = .ok (.wvcr 0xA5#8, []) := by decide
theorem test_decode_wevcr : decode resetMode [0x61#8, 0xA5#8] = .ok (.wevcr 0xA5#8, []) := by decide
theorem test_decode_extendAddrWrite : decode resetMode [0xC5#8, 0xA5#8] = .ok (.extendAddrWrite 0xA5#8, []) := by decide
theorem test_decode_brwr : decode resetMode [0x17#8, 0xA5#8] = .ok (.brwr 0xA5#8, []) := by decide
theorem test_decode_wnvcr : decode resetMode [0xB1#8, 0xFE#8, 0x8F#8] = .ok (.wnvcr 0x8FFE#16, []) := by decide
theorem test_decode_read : decode resetMode [0x03#8, 0x12#8, 0x34#8, 0x56#8] = .ok (.read (.a3 0x123456#24), []) := by decide
theorem test_decode_fastRead : decode resetMode [0x0B#8, 0x12#8, 0x34#8, 0x56#8] = .ok (.fastRead (.a3 0x123456#24), []) := by decide
theorem test_decode_dor : decode resetMode [0x3B#8, 0x12#8, 0x34#8, 0x56#8] = .ok (.dor (.a3 0x123456#24), []) := by decide
theorem test_decode_qor : decode resetMode [0x6B#8, 0x12#8, 0x34#8, 0x56#8] = .ok (.qor (.a3 0x123456#24), []) := by decide
theorem test_decode_pp : decode resetMode [0x02#8, 0x12#8, 0x34#8, 0x56#8] = .ok (.pp (.a3 0x123456#24), []) := by decide
theorem test_decode_dpp : decode resetMode [0xA2#8, 0x12#8, 0x34#8, 0x56#8] = .ok (.dpp (.a3 0x123456#24), []) := by decide
theorem test_decode_qpp : decode resetMode [0x32#8, 0x12#8, 0x34#8, 0x56#8] = .ok (.qpp (.a3 0x123456#24), []) := by decide
theorem test_decode_erase4k : decode resetMode [0x20#8, 0x12#8, 0x34#8, 0x56#8] = .ok (.erase4k (.a3 0x123456#24), []) := by decide
theorem test_decode_erase32k : decode resetMode [0x52#8, 0x12#8, 0x34#8, 0x56#8] = .ok (.erase32k (.a3 0x123456#24), []) := by decide
theorem test_decode_eraseSector : decode resetMode [0xD8#8, 0x12#8, 0x34#8, 0x56#8] = .ok (.eraseSector (.a3 0x123456#24), []) := by decide
theorem test_decode_read4 : decode resetMode [0x13#8, 0x01#8, 0x23#8, 0x45#8, 0x67#8] = .ok (.read4 0x01234567#32, []) := by decide
theorem test_decode_fastRead4 : decode resetMode [0x0C#8, 0x01#8, 0x23#8, 0x45#8, 0x67#8] = .ok (.fastRead4 0x01234567#32, []) := by decide
theorem test_decode_dor4 : decode resetMode [0x3C#8, 0x01#8, 0x23#8, 0x45#8, 0x67#8] = .ok (.dor4 0x01234567#32, []) := by decide
theorem test_decode_qor4 : decode resetMode [0x6C#8, 0x01#8, 0x23#8, 0x45#8, 0x67#8] = .ok (.qor4 0x01234567#32, []) := by decide
theorem test_decode_pp4 : decode resetMode [0x12#8, 0x01#8, 0x23#8, 0x45#8, 0x67#8] = .ok (.pp4 0x01234567#32, []) := by decide
theorem test_decode_pp4_4 : decode resetMode [0x3E#8, 0x01#8, 0x23#8, 0x45#8, 0x67#8] = .ok (.pp4_4 0x01234567#32, []) := by decide
theorem test_decode_erase4_4k : decode resetMode [0x21#8, 0x01#8, 0x23#8, 0x45#8, 0x67#8] = .ok (.erase4_4k 0x01234567#32, []) := by decide
theorem test_decode_erase4_32k : decode resetMode [0x5C#8, 0x01#8, 0x23#8, 0x45#8, 0x67#8] = .ok (.erase4_32k 0x01234567#32, []) := by decide
theorem test_decode_erase4Sector : decode resetMode [0xDC#8, 0x01#8, 0x23#8, 0x45#8, 0x67#8] = .ok (.erase4Sector 0x01234567#32, []) := by decide
theorem test_decode_dior : decode resetMode [0xBB#8, 0x12#8, 0x34#8, 0x56#8, 0xA5#8, 0x5A#8] = .ok (.dior (.a3 0x123456#24) [0xA5#8, 0x5A#8], []) := by decide
theorem test_decode_dior4 : decode mode4 [0xBC#8, 0x01#8, 0x23#8, 0x45#8, 0x67#8, 0xA5#8] = .ok (.dior4 0x01234567#32 [0xA5#8], []) := by decide
theorem test_decode_qior : decode mode4 [0xEB#8, 0x01#8, 0x23#8, 0x45#8, 0x67#8, 0x11#8, 0x22#8, 0x33#8] = .ok (.qior (.a4 0x01234567#32) [0x11#8, 0x22#8, 0x33#8], []) := by decide
theorem test_decode_qior4 : decode resetMode [0xEC#8, 0x01#8, 0x23#8, 0x45#8, 0x67#8, 0x11#8, 0x22#8, 0x33#8, 0x44#8, 0x55#8] = .ok (.qior4 0x01234567#32 [0x11#8, 0x22#8, 0x33#8, 0x44#8, 0x55#8], []) := by decide
theorem test_decode_aaiWp : decode resetMode [0xAD#8, 0x12#8, 0x34#8, 0x56#8] = .ok (.aaiWp (some 0x123456#24), []) := by decide
theorem test_decode_aaiWp_continue : decode { resetMode with aai := true } [0xAD#8] = .ok (.aaiWp none, []) := by decide
/-- In the 4-byte mode AAI_WP still takes three address bytes (R102, V125). -/
theorem test_decode_aaiWp_mode4 : decode mode4 [0xAD#8, 0x12#8, 0x34#8, 0x56#8] = .ok (.aaiWp (some 0x123456#24), []) := by decide
/-- In the 4-byte mode READ takes four (V3). -/
theorem test_decode_read_mode4 : decode mode4 [0x03#8, 0x01#8, 0x23#8, 0x45#8, 0x67#8] = .ok (.read (.a4 0x01234567#32), []) := by
  decide
theorem test_decode_unknown : decode resetMode [0x00#8] = .error (.unknownOpcode 0x00#8) := by decide
theorem test_decode_short : decode resetMode [0x02#8, 0x00#8] = .error (.missingParameters .pp 3 1) := by decide
theorem test_decodeTableWord_read : decodeTableWord 8 0x03 = some (.read (.a3 0#24)) := by decide
theorem test_decodeTableWord_unknown : decodeTableWord 8 0xFF = none := by decide
/-- A placed command runs in the very next step. -/
theorem test_withFetchWord_wren : view (step (State.reset.withFetchWord 8 0x06)) (·.dev.wel) = some true := by decide
theorem test_withFetchWord_pp : view (step (State.reset.withFetchWord 8 0x02)) (·.dev.seq) = some .pageProgram := by decide

/-! ### Reset, storage -/

theorem test_reset_mem_canonical : State.reset.dev.mem.Wf 0xFF#8 := by decide
/-- Storage reads 0xFF where nothing was programmed (R311), and programming 0xFF leaves no entry. -/
theorem test_mem_write_erased : Memory.write 0xFF#8 [(5, 0x42#8)] 5 0xFF#8 = [] := by decide
theorem test_mem_seed : Memory.ofSeed 0xFF#8 16 [(9, 1#8), (3, 2#8), (9, 7#8), (20, 1#8), (4, 0xFF#8)] = [(3, 2#8), (9, 1#8)] := by decide
/-- V195, V196: descriptors that are not well-formed. -/
theorem test_power_on_refuses : refusal (step (got .reset (.powerOn { resetPart with pageSize := 768 } none))) = some .badDescriptor := by
  decide
theorem test_power_on_refuses_zero : refusal (step (got .reset (.powerOn { resetPart with pageSize := 0 } none))) = some .badDescriptor := by
  decide
/-- V190: the derived registers of part PB. -/
theorem test_power_on_PB : view (step (got .reset (.powerOn partPB none))) (·.dev) = some resetPB.dev := by decide

/-! ### One step each, against 95_test_vectors.md -/

/-- V1. -/
theorem test_unknown_opcode :
    view (step (got .reset (.transfer 0x00 8))) (fun s => (s.dev.seq, s.dev.cmd, s.out.warns)) =
      some (.idle, 0x00#8, [.unknownOpcode 0x00#8]) := by decide
/-- V2: an unrecognized byte clears the reset-enable latch. -/
theorem test_unknown_opcode_clears_latch :
    view (step (got (State.reset.setRstEn true) (.transfer 0xFF 8))) (·.dev.rstEn) = some false := by decide
/-- V6: the last address byte. -/
theorem test_read_target :
    view (step (got (((State.reset.beginOp .read).startCollect 3).setParams [0x12#8, 0x34#8]) (.transfer 0x56 8)))
      (fun s => (s.dev.cur, s.dev.seq, s.dev.pbuf, s.dev.need)) = some (0x11A2B0, .read, [], 0) := by decide
/-- V7: bank 2 wraps at 32 MiB. -/
theorem test_read_bank_wraps : view (exec (.read (.a3 0x000010#24)) (resetPB.setEar 2#8)) (·.dev.cur) = some 0x80 := by decide
/-- V8: bit 7 of the bank register is no part of the bank. -/
theorem test_read_bank_mask :
    view (exec (.read (.a3 0x000010#24)) (resetPB.setEar 0x81#8)) (·.dev.cur) = some (0x1000010 * 8) := by decide
/-- Program 2, step 11: a 4-byte address is not extended. -/
theorem test_read4_no_bank :
    view (exec (.read4 0x03000010#32) (resetPB.setEar 0x01#8)) (·.dev.cur) = some (0x1000010 * 8) := by decide
/-- Another mask and another dummy table in the configuration change the target and the wait. -/
theorem test_config_bank_mask :
    view (exec (.read (.a3 0x000010#24)) { resetPB with config := { Config.spec with bankMask := 0x00#8 }, dev := { resetPB.dev with ear := 1#8 } })
      (·.dev.cur) = some 0x80 := by decide
theorem test_config_dummy_cycles :
    view (exec (.read (.a3 0#24))
      { State.reset with config := { Config.spec with dummyCycles := [{ op := .read, vcfg := none, parts := .exactly resetPart, units := .fixed 3 }] } })
      (fun s => (s.dev.seq, s.dev.dummyTarget)) = some (.dummyWait, 3) := by decide
/-- The example of R133. -/
theorem test_fast_read_bank :
    view (exec (.fastRead (.a3 0x123456#24)) (resetPB.setEar 1#8)) (fun s => (s.dev.cur, s.dev.seq, s.dev.dummyTarget)) =
      some (0x891A2B0, .dummyWait, 8) := by decide
/-- V92: no dummy unit when `S.vcfg[7:4]` is 0. -/
theorem test_fast_read_no_wait :
    view (exec (.fastRead (.a3 0x000010#24)) (resetPB.setVcfg 0x0B#8)) (·.dev.seq) = some .read := by decide
/-- V192: ten dummy units. -/
theorem test_fastRead4_wait : view (exec (.fastRead4 0x10#32) (resetPB.setVcfg 0xAB#8)) (·.dev.dummyTarget) = some 10 := by decide
/-- V85, V86, V87: eight dummy units on PA. -/
theorem test_dor_wait : view (exec (.dor (.a3 0x10#24)) .reset) (fun s => (s.dev.dummyTarget, s.dev.cur)) = some (8, 0x80) := by decide
theorem test_qor_wait : view (exec (.qor (.a3 0x10#24)) .reset) (fun s => (s.dev.dummyTarget, s.dev.cur)) = some (8, 0x80) := by decide
theorem test_dor4_wait : view (exec (.dor4 0x10#32) .reset) (fun s => (s.dev.dummyTarget, s.dev.cur)) = some (8, 0x80) := by decide
theorem test_qor4_wait : view (exec (.qor4 0x10#32) .reset) (fun s => (s.dev.dummyTarget, s.dev.cur)) = some (8, 0x80) := by decide
/-- V88 to V91: the I/O reads have no further wait. -/
theorem test_dior_read : view (exec (.dior (.a3 0x10#24) [1#8, 2#8]) .reset) (fun s => (s.dev.seq, s.dev.cur)) = some (.read, 0x80) := by
  decide
theorem test_dior4_read : view (exec (.dior4 0x10#32 [1#8, 2#8]) .reset) (fun s => (s.dev.seq, s.dev.cur)) = some (.read, 0x80) := by
  decide
theorem test_qior_read : view (exec (.qior (.a3 0x10#24) []) .reset) (fun s => (s.dev.seq, s.dev.cur)) = some (.read, 0x80) := by decide
theorem test_qior4_read : view (exec (.qior4 0x10#32 []) .reset) (fun s => (s.dev.seq, s.dev.cur)) = some (.read, 0x80) := by decide
/-- The hints of R109: V86, V118. -/
theorem test_qor_hint : view (step (got .reset (.transfer 0x6B 8))) (fun s => (s.dev.widthHint, s.dev.need)) = some (.four, 3) := by
  decide
theorem test_dpp_hint : view (step (got .reset (.transfer 0xA2 8))) (fun s => (s.dev.widthHint, s.dev.need)) = some (.two, 3) := by
  decide
/-- V89: QIOR needs nine bytes in the 4-byte mode of `V_GENERIC`. -/
theorem test_qior_need : view (step (got (State.reset.setA4b true) (.transfer 0xEB 8))) (·.dev.need) = some 9 := by decide
/-- V20, V21. -/
theorem test_wren : view (step (got .reset (.transfer 0x06 8))) (fun s => (s.dev.wel, s.dev.cmd)) = some (true, 0x06#8) := by decide
theorem test_wrdi :
    view (step (got ((State.reset.setWel true).setAai true) (.transfer 0x04 8))) (fun s => (s.dev.wel, s.dev.aai)) =
      some (false, false) := by decide
/-- V24: a second RESET_ENABLE leaves the latch set. -/
theorem test_resetEnable : view (step (got (State.reset.setRstEn true) (.transfer 0x66 8))) (·.dev.rstEn) = some true := by decide
/-- V22. -/
theorem test_resetMemory :
    view (step (got ((((at_ .idle 0x108 [(0x20, 0#8)]).setWel true).setEar 5#8).setRstEn true) (.transfer 0x99 8)))
      (fun s => (s.dev, s.out)) = some (({ State.reset with dev := { State.reset.dev with mem := [(0x20, 0#8)] } } : State).dev, Output.empty) := by
  decide
/-- V26. -/
theorem test_resetMemory_not_honored :
    view (step (got (State.reset.setWel true) (.transfer 0x99 8))) (fun s => (s.dev.wel, s.dev.cmd, s.out.warns)) =
      some (true, 0x99#8, []) := by decide
/-- V191 to V193: the derivation on PB; V194: none on PA. -/
theorem test_reset_derives_191 :
    view (exec .resetMemory ((resetPB.setNvcfg 0x8FFE#16).setRstEn true)) (fun s => (s.dev.nvcfg, s.dev.a4b)) =
      some (0x8FFE#16, true) := by decide
theorem test_reset_derives_192 :
    view (exec .resetMemory ((resetPB.setNvcfg 0xAFFD#16).setRstEn true)) (fun s => (s.dev.vcfg, s.dev.evcfg, s.dev.a4b, s.dev.ear)) =
      some (0xAB#8, 0xDF#8, false, 0x01#8) := by decide
theorem test_reset_derives_193 :
    view (exec .resetMemory ((resetPB.setNvcfg 0x81F3#16).setRstEn true)) (fun s => (s.dev.vcfg, s.dev.evcfg, s.dev.a4b, s.dev.ear)) =
      some (0x83#8, 0x1F#8, false, 0x00#8) := by decide
theorem test_reset_derives_not_194 :
    view (exec .resetMemory ((State.reset.setNvcfg 0x8FFE#16).setRstEn true)) (fun s => (s.dev.vcfg, s.dev.evcfg, s.dev.a4b)) =
      some (0x00#8, 0x00#8, false) := by decide
/-- V29. -/
theorem test_en4b : view (step (got .reset (.transfer 0xB7 8))) (·.dev.fsr) = some 0x81#8 := by decide
theorem test_ex4b : view (step (got (State.reset.setA4b true) (.transfer 0xE9 8))) (·.dev.fsr) = some 0x80#8 := by decide
/-- V40, V41, V48. -/
theorem test_rdsr : view (step (got (State.reset.setWel true) (.transfer 0x05 8))) (fun s => (s.dev.rbuf, s.dev.rcyclic, s.dev.seq)) =
    some ([0x02#8], true, .streamingResponse) := by decide
theorem test_readFsr : view (step (got .reset (.transfer 0x70 8))) (fun s => (s.dev.rbuf, s.dev.rcyclic)) = some ([0x80#8], true) := by
  decide
/-- V42. -/
theorem test_brrd : view (exec .brrd (State.reset.setEar 0x81#8)) (fun s => (s.dev.rbuf, s.dev.rcyclic)) = some ([0x81#8], false) := by decide
theorem test_extendAddrRead : view (exec .extendAddrRead (State.reset.setEar 0x81#8)) (·.dev.rbuf) = some [0x81#8] := by decide
/-- T1, V43 to V45. -/
theorem test_jedec_PA : view (exec .jedecRead .reset) (·.dev.rbuf) = some [0xEF#8, 0x40#8, 0x14#8] := by decide
theorem test_jedec_PB : view (exec .jedecRead resetPB) (·.dev.rbuf) = some [0x20#8, 0xBA#8, 0x19#8, 0x10#8, 0x00#8] := by decide
theorem test_rdid90 : view (exec .rdid90 .reset) (·.dev.rbuf) = some [0xEF#8, 0x13#8] := by decide
theorem test_rnvcr : view (exec .rnvcr resetPB) (·.dev.rbuf) = some [0xFF#8, 0x8F#8] := by decide
theorem test_rvcr : view (exec .rvcr resetPB) (·.dev.rbuf) = some [0x8B#8] := by decide
theorem test_revcr : view (exec .revcr resetPB) (·.dev.rbuf) = some [0xDF#8] := by decide
/-- V60, T7: the data byte has no effect. -/
theorem test_wrsr : view (exec (.wrsr 0x02#8) (State.reset.setWel true)) (·.dev.wel) = some false := by decide
/-- V62, V63, at the second data byte: the low byte came first. -/
theorem test_wnvcr :
    view (step (got ((((resetPB.beginOp .wnvcr).startCollect 2).setParams [0xFE#8]).setWel true) (.transfer 0x8F 8)))
      (fun s => (s.dev.nvcfg, s.dev.vcfg, s.dev.wel)) = some (0x8FFE#16, 0x8B#8, true) := by decide
theorem test_wnvcr_protected : view (exec (.wnvcr 0#16) resetPB) (fun s => (s.dev.nvcfg, s.out.warns)) = some (0x8FFF#16, []) := by decide
/-- V64 to V67. -/
theorem test_wvcr : view (exec (.wvcr 0x4B#8) (resetPB.setWel true)) (·.dev.vcfg) = some 0x4B#8 := by decide
theorem test_wevcr : view (exec (.wevcr 0x5F#8) (State.reset.setWel true)) (·.dev.evcfg) = some 0x5F#8 := by decide
theorem test_extendAddrWrite : view (exec (.extendAddrWrite 0x03#8) (State.reset.setWel true)) (·.dev.ear) = some 0x03#8 := by decide
theorem test_extendAddrWrite_protected : view (exec (.extendAddrWrite 0x03#8) .reset) (·.dev.ear) = some 0x00#8 := by decide
theorem test_brwr : view (exec (.brwr 0x81#8) (State.reset.setWel true)) (fun s => (s.dev.ear, s.dev.a4b)) = some (0x81#8, false) := by decide
/-- V80, V81: a read wraps at the end of the storage. -/
theorem test_readUnit_wrap :
    view (step (got (at_ .read 0x7FFFF8 [(0xFFFFF, 0x77#8)]) (.transfer 0 8))) (fun s => (s.out.rx, s.dev.cur)) =
      some (some 0x77#8, 0) := by decide
/-- V93, V94: the units of 0xA1, most significant bits first. -/
theorem test_readUnit_nibble :
    view (step (got (at_ .read 0x80 [(0x10, 0xA1#8)]) (.transfer 0 4))) (fun s => (s.out.rx, s.dev.cur)) = some (some 0xA#8, 0x84) := by
  decide
theorem test_readUnit_bit :
    view (step (got (at_ .read 0x87 [(0x10, 0xA1#8)]) (.transfer 0 1))) (fun s => (s.out.rx, s.dev.cur)) = some (some 1#8, 0x88) := by
  decide
/-- V95, V11, V176: outside the input domain. -/
theorem test_misaligned : refusal (step (got (at_ .read 0x81 []) (.transfer 0 2))) = some .misalignedUnit := by decide
theorem test_narrow : refusal (step (got .reset (.transfer 0x3 4))) = some .narrowUnit := by decide
theorem test_bad_lines : refusal (step (got (at_ .read 0 []) (.setBusWidth 3))) = some .badBusWidth := by decide
/-- V110, V111, V113. -/
theorem test_pp : view (exec (.pp (.a3 0x000100#24)) .reset) (fun s => (s.dev.seq, s.dev.cur)) = some (.pageProgram, 0x800) := by decide
theorem test_programUnit :
    view (step (got ((at_ .pageProgram 0x800 []).setWel true) (.transfer 0x12 8)))
      (fun s => (s.dev.mem, s.dev.cur, s.dev.dirty, s.dev.wel)) = some ([(0x100, 0x12#8)], 0x808, some 1, true) := by decide
theorem test_programUnit_zero_to_one :
    view (step (got ((at_ .pageProgram 0x800 [(0x100, 0x12#8)]).setWel true) (.transfer 0xF0 8)))
      (fun s => (s.dev.mem, s.out.warns)) = some ([(0x100, 0x10#8)], [.zeroToOne 0x100 0x12#8 0xF0#8]) := by decide
theorem test_programUnit_same :
    view (step (got ((at_ .pageProgram 0x800 [(0x100, 0x12#8)]).setWel true) (.transfer 0x12 8)))
      (fun s => (s.dev.mem, s.out.warns)) = some ([(0x100, 0x12#8)], []) := by decide
/-- V114: crossing into the next page writes the old one back. -/
theorem test_programUnit_flush :
    view (step (got (((at_ .pageProgram 0x1000 [(0x1FF, 0xAA#8)]).setWel true).setDirty (some 1)) (.transfer 0xBB 8)))
      (fun s => (s.out.sinks, s.dev.dirty)) =
      some ([{ offset := 0x100, length := 256, cells := [(0x1FF, 0xAA#8)] }], some 2) := by decide
/-- V116. -/
theorem test_programUnit_disabled :
    view (step (got (at_ .pageProgram 0x800 []) (.transfer 0x00 8))) (fun s => (s.dev.mem, s.dev.cur, s.dev.dirty, s.out.warns)) =
      some ([], 0x808, none, [.writeDisabled (.program 0x100)]) := by decide
/-- V119: the low nibble is kept. -/
theorem test_programUnit_nibble :
    view (step (got ((at_ .pageProgram 0x800 []).setWel true) (.transfer 0xA 4))) (fun s => (s.dev.mem, s.dev.cur)) =
      some ([(0x100, 0xAF#8)], 0x804) := by decide
/-- V120, at the second unit of two bits. -/
theorem test_programUnit_pair :
    view (step (got ((at_ .pageProgram 0x802 [(0x100, 0x7F#8)]).setWel true) (.transfer 0x2 2))) (·.dev.mem) =
      some [(0x100, 0x6F#8)] := by decide
/-- V127, V214: an overwrite part. -/
theorem test_programUnit_overwrite :
    view (step (got (((at_ .pageProgram 0 [(0, 0x0F#8)]).setWel true).setPart partPC) (.transfer 0xF0 8)))
      (fun s => (s.dev.mem, s.out.warns)) = some ([(0, 0xF0#8)], [.zeroToOne 0 0x0F#8 0xF0#8]) := by decide
/-- V117 to V121. -/
theorem test_pp4 : view (exec (.pp4 0x100#32) .reset) (fun s => (s.dev.seq, s.dev.cur)) = some (.pageProgram, 0x800) := by decide
theorem test_dpp : view (exec (.dpp (.a3 0x100#24)) .reset) (fun s => (s.dev.seq, s.dev.cur)) = some (.pageProgram, 0x800) := by decide
theorem test_qpp : view (exec (.qpp (.a3 0x100#24)) .reset) (fun s => (s.dev.seq, s.dev.cur)) = some (.pageProgram, 0x800) := by decide
theorem test_pp4_4 : view (exec (.pp4_4 0x100#32) .reset) (fun s => (s.dev.seq, s.dev.cur)) = some (.pageProgram, 0x800) := by decide
/-- V125, V126: the begin form sets the latch, the continue form goes on where the cursor is. -/
theorem test_aaiWp_begin :
    view (exec (.aaiWp (some 0x100#24)) .reset) (fun s => (s.dev.seq, s.dev.cur, s.dev.aai)) = some (.pageProgram, 0x800, true) := by decide
theorem test_aaiWp_continue :
    view (step (got ((at_ .idle 0x1008 []).setAai true) (.transfer 0xAD 8))) (fun s => (s.dev.seq, s.dev.cur)) =
      some (.pageProgram, 0x1008) := by decide
/-- V140: the range is aligned down, the cursor is not. -/
theorem test_erase4k :
    view (exec (.erase4k (.a3 0x001234#24)) ((at_ .idle 0 [(0xFFF, 0#8), (0x1000, 0#8), (0x1FFF, 0#8), (0x2000, 0#8)]).setWel true))
      (fun s => (s.dev.mem, s.dev.cur, s.dev.wel, s.out.sinks)) =
      some ([(0xFFF, 0#8), (0x2000, 0#8)], 0x91A0, true, [{ offset := 0x1000, length := 4096, cells := [] }]) := by decide
theorem test_erase4_4k :
    view (exec (.erase4_4k 0x00001234#32) ((at_ .idle 0 [(0x1000, 0#8), (0x2000, 0#8)]).setWel true)) (·.dev.mem) = some [(0x2000, 0#8)] := by
  decide
/-- V141, V142: an unsupported size still erases; without write-enable only W2. -/
theorem test_erase32k :
    view (exec (.erase32k (.a3 0x009ABC#24)) (((at_ .idle 0 [(0x7FFF, 0#8), (0x8000, 0#8), (0xFFFF, 0#8)]).setWel true).beginCommand 0x52#8 .one))
      (fun s => (s.dev.mem, s.out.warns, s.out.sinks)) =
      some ([(0x7FFF, 0#8)], [.eraseUnsupported 0x52#8], [{ offset := 0x8000, length := 32768, cells := [] }]) := by decide
theorem test_erase32k_disabled :
    view (exec (.erase32k (.a3 0x009ABC#24)) ((at_ .idle 0 [(0x8000, 0#8)]).beginCommand 0x52#8 .one)) (fun s => (s.dev.mem, s.out.warns, s.out.sinks)) =
      some ([(0x8000, 0#8)], [.writeDisabled (.erase 0x52#8)], []) := by decide
/-- V148: the range is clipped at the capacity. -/
theorem test_erase4_32k_clipped :
    view (exec (.erase4_32k 0x00004000#32) (((at_ .idle 0 [(0, 0#8), (0x4FFF, 0#8)]).setPart partPD).setWel true))
      (fun s => (s.dev.mem, s.out.warns, s.out.sinks)) = some ([], [], [{ offset := 0, length := 0x5000, cells := [] }]) := by decide
/-- V143, V149, V150. -/
theorem test_eraseSector :
    view (exec (.eraseSector (.a3 0x0F2345#24)) ((at_ .idle 0 [(0xEFFFF, 0#8), (0xF0000, 0#8)]).setWel true)) (fun s => (s.dev.mem, s.out.sinks)) =
      some ([(0xEFFFF, 0#8)], [{ offset := 0xF0000, length := 65536, cells := [] }]) := by decide
theorem test_eraseSector_bank :
    view (exec (.eraseSector (.a3 0#24)) ((resetPB.setEar 1#8).setWel true)) (·.out.sinks) =
      some [{ offset := 0x1000000, length := 65536, cells := [] }] := by decide
theorem test_erase4Sector :
    view (exec (.erase4Sector 0x00001234#32) (((at_ .idle 0 [(0xFFF, 0#8), (0x1000, 0#8)]).setPart partPD).setWel true)) (·.dev.mem) =
      some [(0xFFF, 0#8)] := by decide
/-- V146, V147. -/
theorem test_bulkEraseC7 :
    view (exec .bulkEraseC7 ((at_ .idle 0x108 [(0x20, 0#8)]).setWel true)) (fun s => (s.dev.mem, s.dev.cur, s.out.sinks)) =
      some ([], 0x108, [{ offset := 0, length := 0x100000, cells := [] }]) := by decide
theorem test_bulkErase60_disabled :
    view (exec .bulkErase60 ((at_ .idle 0 [(0x20, 0#8)]).beginCommand 0x60#8 .one)) (fun s => (s.dev.mem, s.out.warns)) =
      some ([(0x20, 0#8)], [.writeDisabled (.erase 0x60#8)]) := by decide
/-- V151: an erase leaves the dirty page marked. -/
theorem test_erase_keeps_dirty :
    view (exec (.eraseSector (.a3 0#24)) (((at_ .idle 0 [(0x100, 0x55#8)]).setWel true).setDirty (some 1))) (fun s => (s.dev.dirty, s.dev.mem)) =
      some (some 1, []) := by decide

/-- A dummy wait with the given lines, target and count. -/
def waiting (l : Lines) (target count : Nat) : State :=
  { State.reset with dev := { State.reset.dev with seq := .dummyWait, lines := l, dummyTarget := target, dummyCount := count } }

/-- V170 to V175. -/
theorem test_width_170 :
    view (step (got (waiting .one 8 4) (.setBusWidth 4))) (fun s => (s.dev.dummyTarget, s.dev.dummyCount, s.dev.lines)) =
      some (1, 0, .four) := by decide
theorem test_width_171 : view (step (got (waiting .four 2 0) (.setBusWidth 1))) (·.dev.dummyTarget) = some 8 := by decide
theorem test_width_172 :
    view (step (got (waiting .one 8 3) (.setBusWidth 2))) (fun s => (s.dev.dummyTarget, s.dev.dummyCount)) = some (3, 0) := by decide
theorem test_width_174 :
    view (step (got (waiting .two 8 3) (.setBusWidth 2))) (fun s => (s.dev.dummyTarget, s.dev.dummyCount)) = some (8, 3) := by decide
theorem test_width_175 : view (step (got .reset (.setBusWidth 4))) (fun s => (s.dev.lines, s.dev.seq)) = some (.four, .idle) := by decide
/-- V96, R248: the last dummy unit, of any width, gives no output. -/
theorem test_dummy_last : view (step (got (waiting .one 8 7) (.transfer 1 1))) (fun s => (s.dev.seq, s.out.rx)) = some (.read, none) := by
  decide
/-- V177, V178. -/
theorem test_select_asserted :
    view (step (got ((at_ .pageProgram 0x808 [(0x100, 0#8)]).setDirty (some 1)) (.select true))) (fun s => (s.dev.seq, s.dev.dirty, s.out.sinks)) =
      some (.idle, some 1, []) := by decide
theorem test_select_deasserted :
    view (step (got ((at_ .pageProgram 0x808 [(0x100, 0#8)]).setDirty (some 1)) (.select false))) (fun s => (s.dev.dirty, s.dev.cur, s.out.sinks)) =
      some (none, 0x808, [{ offset := 0x100, length := 256, cells := [(0x100, 0#8)] }]) := by decide
/-- V180, and the example of R247. -/
theorem test_stream_cyclic :
    view (step (got (State.reset.loadResponse [0x02#8] true) (.transfer 0 8))) (fun s => (s.out.rx, s.dev.rpos, s.dev.seq)) =
      some (some 0x02#8, 0, .streamingResponse) := by decide
theorem test_stream_ends :
    view (step (got (State.reset.loadResponse [0x19#8] false) (.transfer 0 8))) (fun s => (s.out.rx, s.dev.rbuf, s.dev.seq)) =
      some (some 0x19#8, [], .idle) := by decide
/-- Two blocks of the same part: what one captures the other restores (R46). -/
theorem test_restore :
    view (step (got .reset (.restore { part := resetPart, dev := (at_ .read 0x80 [(0x10, 0xA1#8)]).dev }))) (·.dev) =
      some (at_ .read 0x80 [(0x10, 0xA1#8)]).dev := by decide

/-! ### Witnesses for the hypotheses of the obligations

Each theorem shows concrete states and operands that meet all hypotheses of the obligation it is named after, one conjunct for
each clause or case. -/

/-- A collector of `op` that has the bytes `ps`, with the byte `b` on the bus. -/
def collecting (s : State) (op : Op) (need : Nat) (ps : List Byte) (b : Nat) : State :=
  got (((s.beginOp op).startCollect need).setParams ps) (.transfer b 8)

theorem witness_DecodeOfEncodeGivesTheCommand :
    mode4.config.Wf ∧ (Instr.qior (.a4 0xFFFFFFFF#32) [0x00#8, 0xFF#8, 0x00#8]).wellFormed mode4 = true ∧
      (Instr.aaiWp none).wellFormed { mode4 with aai := true } = true := ⟨Config.spec_wf, by decide⟩

theorem witness_DecodedBytesAreTheEncoding :
    mode4.config.Wf ∧ decode mode4 [0xBB#8, 0xFF#8, 0x00#8, 0x00#8, 0x10#8, 0xA5#8, 0xFF#8] =
      .ok (.dior (.a4 0xFF000010#32) [0xA5#8], [0xFF#8]) := ⟨Config.spec_wf, by decide⟩

theorem witness_BytesOutsideTheMapAreUnknown : ∀ op, (0x00#8, op) ∉ resetMode.config.opcodeMap := by
  intro op
  cases op <;> decide

theorem witness_StepRunsTheOpcode :
    (State.reset.setRstEn true).dev.seq = .idle ∧ (got (State.reset.setRstEn true) (.transfer 0x99 8)).Waiting (.transfer 0x99 8) [] ∧
      0x99 < 256 ∧ decode (State.reset.setRstEn true).mode [BitVec.ofNat 8 0x99] = .ok (.resetMemory, []) ∧
      decode State.reset.mode [BitVec.ofNat 8 0x06] = .ok (.wren, []) := by decide

/-- A command with an address, and one with mode/dummy bytes. -/
theorem witness_StepBeginsToCollect :
    State.reset.dev.seq = .idle ∧ (got .reset (.transfer 0xD8 8)).Waiting (.transfer 0xD8 8) [] ∧
      opOfByte State.reset.config (BitVec.ofNat 8 0xD8) = some .eraseSector ∧
      opOfByte State.reset.config (BitVec.ofNat 8 0xEB) = some .qior ∧ 0xEB < 256 ∧
      3 + State.reset.config.qioExtra.get State.reset.part.variant ≠ 0 := by decide

/-- The last byte of PP's address, and the one before it. -/
theorem witness_StepCollectsAndRunsTheCommand :
    ((collecting .reset .pp 3 [0x00#8, 0x01#8] 0).Inv ∧ (collecting .reset .pp 3 [0x00#8] 255).Inv) ∧
      (collecting .reset .pp 3 [0x00#8, 0x01#8] 0).dev.seq = .collectingParams ∧
      (collecting .reset .pp 3 [0x00#8, 0x01#8] 0).Waiting (.transfer 0 8) [] ∧
      (collecting .reset .pp 3 [0x00#8, 0x01#8] 0).dev.pbuf.length + 1 = (collecting .reset .pp 3 [0x00#8, 0x01#8] 0).dev.need ∧
      (collecting .reset .pp 3 [0x00#8] 255).Waiting (.transfer 255 8) [] ∧
      (collecting .reset .pp 3 [0x00#8] 255).dev.pbuf.length + 1 ≠ (collecting .reset .pp 3 [0x00#8] 255).dev.need :=
  ⟨⟨inv_of rfl (by decide), inv_of rfl (by decide)⟩, by decide⟩

theorem witness_UnrecognizedOpcodeOnlyWarns :
    (got .reset (.transfer 0xFF 8)).dev.seq = .idle ∧ (got .reset (.transfer 0xFF 8)).Waiting (.transfer 0xFF 8) [] ∧ 0xFF < 256 ∧
      ∀ op, (BitVec.ofNat 8 0xFF, op) ∉ State.reset.config.opcodeMap := by
  refine ⟨rfl, rfl, by decide, fun op => ?_⟩
  cases op <;> decide

/-- A command with parameters, and one without. -/
theorem witness_CommandBytesRunTheCommand :
    State.reset.Inv ∧ State.reset.dev.seq = .idle ∧ (Instr.wrsr 0x02#8).wellFormed State.reset.mode = true ∧
      byteOfOp State.reset.config (Instr.wrsr 0x02#8).op = some 0x01#8 ∧
      ({ State.reset with inputs := [.transfer 0x01 8, .transfer 0x02 8] } : State).inputs =
        (encode State.reset.config (.wrsr 0x02#8)).map (fun x => Event.transfer x.toNat 8) ++ [] ∧
      Instr.resetMemory.wellFormed State.reset.mode = true ∧
      byteOfOp State.reset.config Instr.resetMemory.op = some 0x99#8 ∧
      (got .reset (.transfer 0x99 8)).inputs =
        (encode State.reset.config .resetMemory).map (fun x => Event.transfer x.toNat 8) ++ [] :=
  ⟨inv_of rfl (by decide), by decide⟩

theorem witness_StepKeepsTheInvariant :
    (got (waiting .four 15 14) (.transfer 0 8)).Inv ∧ ∃ t, step (got (waiting .four 15 14) (.transfer 0 8)) = .next t :=
  ⟨inv_of rfl (by decide), _, rfl⟩

/-- A power-on with another part, and another event. -/
theorem witness_StepKeepsTheConfiguration :
    (∃ t, step (got .reset (.powerOn partPB none)) = .next t ∧ t.part = partPB) ∧
      ∃ t, step (got .reset (.select true)) = .next t ∧ t.part = resetPart := ⟨⟨_, rfl, rfl⟩, _, rfl, rfl⟩

/-- The longest waits at one line and at four, and a collector that needs nine bytes. -/
theorem witness_InvariantKeepsTheWidths :
    (waiting .one 60 0).Inv ∧ (waiting .four 15 14).Inv ∧
      (((State.reset.setA4b true).beginOp .qior).startCollect 9).Inv :=
  ⟨inv_of rfl (by decide), inv_of rfl (by decide), inv_of rfl (by decide)⟩

/-- Every kind of event, and a transfer in every kind of state. -/
theorem witness_EventsOfTheDomainComplete :
    (State.reset.Inv ∧ (at_ .read 0x84 []).Inv ∧ (waiting .one 8 7).Inv) ∧
    (InDomain State.reset (.powerOn partPB (some [(5, 0x42#8)])) ∧ InDomain State.reset (.select false) ∧
      InDomain State.reset (.setBusWidth 4) ∧ InDomain State.reset (.transfer 255 8) ∧ InDomain State.reset .snapshot ∧
      InDomain State.reset (.restore { part := resetPart, dev := State.reset.dev })) ∧
    InDomain (at_ .read 0x84 []) (.transfer 15 4) ∧ InDomain (waiting .one 8 7) (.transfer 1 1) := by
  refine ⟨⟨inv_of rfl (by decide), inv_of rfl (by decide), inv_of rfl (by decide)⟩, ?_⟩
  simp only [InDomain]
  and_intros <;> decide

/-- One state and event for each clause: no unit of three bits, four bits in IDLE, two bits at an odd cursor, three lines, a page
that does not divide the storage, a blob with a dirty page. -/
theorem witness_EventsOutsideTheDomainAreRefused :
    ¬ ValidUnit 0 3 ∧ ¬ ValidUnit 4 2 ∧ (ValidUnit 3 4 ∧ State.reset.dev.seq.ByteGranular ∧ 4 ≠ 8) ∧
      (ValidUnit 3 2 ∧ (at_ .read 0x81 []).dev.seq.Data ∧ (at_ .read 0x81 []).dev.cur % 2 ≠ 0) ∧ (3 ≠ 1 ∧ 3 ≠ 2 ∧ 3 ≠ 4) ∧
      ¬ ({ resetPart with pageSize := 768 } : Part).Wf ∧
      ¬ ({ part := resetPart, dev := (State.reset.setDirty (some 1)).dev } : Blob).Acceptable Config.spec resetPart := by
  and_intros <;> decide

theorem witness_AtMostOneWarningPerEvent : ∃ t, step (got .reset (.transfer 0x00 8)) = .next t ∧ t.out.warns.length = 1 :=
  ⟨_, rfl, by decide⟩

theorem witness_StorageNeverSteersControl :
    ∃ t, step (got ((at_ .pageProgram 0x800 [(0x100, 0x12#8)]).setWel true) (.transfer 0xF0 8)) = .next t := ⟨_, rfl⟩

/-- The three clauses: not honored, honored on part PA, honored on part PB. -/
theorem witness_ResetMemoryResetsTheRegisters :
    State.reset.dev.rstEn = false ∧
      ((State.reset.setRstEn true).dev.rstEn = true ∧ (State.reset.setRstEn true).part.variant ≠ .nvcfg) ∧
      (resetPB.setRstEn true).dev.rstEn = true ∧ (resetPB.setRstEn true).part.variant = .nvcfg := by decide

/-- The four cases: set, cleared by an honored reset, cleared by a completed status write, kept. -/
theorem witness_WriteEnableLatchHistory :
    ((got .reset (.transfer 0x06 8)).Inv ∧ ∃ t, step (got .reset (.transfer 0x06 8)) = .next t ∧ t.dev.wel = true) ∧
    ((got ((State.reset.setWel true).setRstEn true) (.transfer 0x99 8)).Inv ∧
      ∃ t, step (got ((State.reset.setWel true).setRstEn true) (.transfer 0x99 8)) = .next t ∧ t.dev.wel = false) ∧
    ((collecting (State.reset.setWel true) .wrsr 1 [] 0x02).Inv ∧
      ∃ t, step (collecting (State.reset.setWel true) .wrsr 1 [] 0x02) = .next t ∧ t.dev.wel = false) ∧
    ((got ((at_ .pageProgram 0 []).setWel true) (.transfer 0 8)).Inv ∧
      ∃ t, step (got ((at_ .pageProgram 0 []).setWel true) (.transfer 0 8)) = .next t ∧ t.dev.wel = true) :=
  ⟨⟨inv_of rfl (by decide), _, rfl, rfl⟩, ⟨inv_of rfl (by decide), _, rfl, rfl⟩, ⟨inv_of rfl (by decide), _, rfl, rfl⟩, inv_of rfl (by decide), _, rfl, rfl⟩

/-- Every kind of event: RESET_ENABLE, another opcode, a parameter byte, chip select, the bus width, a snapshot, power-on, a
restore. -/
theorem witness_ResetEnableLatchHistory :
    (∃ t, step (got .reset (.transfer 0x66 8)) = .next t) ∧ (∃ t, step (got (State.reset.setRstEn true) (.transfer 0x03 8)) = .next t) ∧
      (∃ t, step (collecting (State.reset.setRstEn true) .wrsr 1 [] 0x66) = .next t) ∧
      (∃ t, step (got (State.reset.setRstEn true) (.select false)) = .next t) ∧
      (∃ t, step (got (State.reset.setRstEn true) (.setBusWidth 2)) = .next t) ∧
      (∃ t, step (got (State.reset.setRstEn true) .snapshot) = .next t) ∧
      (∃ t, step (got (State.reset.setRstEn true) (.powerOn resetPart none)) = .next t) ∧
      ∃ t, step (got .reset (.restore { part := resetPart, dev := (State.reset.setRstEn true).dev })) = .next t :=
  ⟨⟨_, rfl⟩, ⟨_, rfl⟩, ⟨_, rfl⟩, ⟨_, rfl⟩, ⟨_, rfl⟩, ⟨_, rfl⟩, ⟨_, rfl⟩, _, rfl⟩

/-- The four cases: EN4B, EX4B, an honored reset that derives the 4-byte mode, a parameter byte with EN4B's value. -/
theorem witness_AddressModeLatchHistory :
    (∃ t, step (got .reset (.transfer 0xB7 8)) = .next t ∧ t.dev.a4b = true) ∧
      (∃ t, step (got (State.reset.setA4b true) (.transfer 0xE9 8)) = .next t ∧ t.dev.a4b = false) ∧
      (∃ t, step (got ((resetPB.setNvcfg 0x8FFE#16).setRstEn true) (.transfer 0x99 8)) = .next t ∧ t.dev.a4b = true) ∧
      ∃ t, step (collecting .reset .wrsr 1 [] 0xB7) = .next t ∧ t.dev.a4b = false :=
  ⟨⟨_, rfl, rfl⟩, ⟨_, rfl, rfl⟩, ⟨_, rfl, rfl⟩, _, rfl, rfl⟩

/-- The three cases: WRDI, the third address byte of a beginning AAI_WP, and the second. -/
theorem witness_AaiLatchHistory :
    ((got (State.reset.setAai true) (.transfer 0x04 8)).Inv ∧
      ∃ t, step (got (State.reset.setAai true) (.transfer 0x04 8)) = .next t ∧ t.dev.aai = false) ∧
    ((collecting .reset .aaiWp 3 [0#8, 1#8] 0).Inv ∧ ∃ t, step (collecting .reset .aaiWp 3 [0#8, 1#8] 0) = .next t ∧ t.dev.aai = true) ∧
    ((collecting .reset .aaiWp 3 [0#8] 1).Inv ∧ ∃ t, step (collecting .reset .aaiWp 3 [0#8] 1) = .next t ∧ t.dev.aai = false) :=
  ⟨⟨inv_of rfl (by decide), _, rfl, rfl⟩, ⟨inv_of rfl (by decide), _, rfl, rfl⟩, inv_of rfl (by decide), _, rfl, rfl⟩

/-- The three ways: power-on, a restore, a completed write. -/
theorem witness_NonVolatileWordChangesOnlyByItsWrite :
    (∃ t, step (got (State.reset.setNvcfg 0#16) (.powerOn resetPart none)) = .next t ∧ t.dev.nvcfg ≠ 0#16) ∧
    (∃ t, step (got .reset (.restore { part := resetPart, dev := (State.reset.setNvcfg 0#16).dev })) = .next t ∧ t.dev.nvcfg ≠ 0x8FFF#16) ∧
    ∃ t, step (collecting (State.reset.setWel true) .wnvcr 2 [0xFE#8] 0x8F) = .next t ∧ t.dev.nvcfg ≠ 0x8FFF#16 :=
  ⟨⟨_, rfl, by decide⟩, ⟨_, rfl, by decide⟩, _, rfl, by decide⟩

/-- The dummy table of the spec, on both kinds of variant. -/
theorem witness_PlainReadsEnterRead : State.reset.config.dummyCycles = Config.spec.dummyCycles := rfl

theorem witness_OutputReadsWaitForTheDummyUnits :
    State.reset.config.dummyCycles = Config.spec.dummyCycles ∧ State.reset.part.variant ≠ .nvcfg ∧
      resetPB.config.dummyCycles = Config.spec.dummyCycles ∧ resetPB.part.variant = .nvcfg := ⟨rfl, by decide, rfl, rfl⟩

theorem witness_IoReadsEnterRead : resetPB.config.dummyCycles = Config.spec.dummyCycles := rfl

/-- The first and the last bit of the storage. -/
theorem witness_ReadUnitSendsTheBitsAtTheCursor :
    ((at_ .read 0 []).dev.seq = .read ∧ ValidUnit 1 1 ∧ (at_ .read 0 []).dev.cur % 1 = 0 ∧
        (at_ .read 0 []).dev.cur < resetPart.capBits) ∧
      (ValidUnit 255 8 ∧ (at_ .read 0x7FFFF8 []).dev.cur % 8 = 0 ∧ (at_ .read 0x7FFFF8 []).dev.cur < resetPart.capBits) ∧
      (ValidUnit 1 1 ∧ (at_ .read 0x7FFFFF []).dev.cur % 1 = 0 ∧ (at_ .read 0x7FFFFF []).dev.cur < resetPart.capBits) ∧
      (got (at_ .read 0 []) (.transfer 1 1)).Waiting (.transfer 1 1) [] := by decide

theorem witness_ReadStreamsConsecutiveBytes :
    (at_ .read 0x7FFFF8 [(0, 0x88#8)]).Inv ∧ (at_ .read 0x7FFFF8 []).dev.seq = .read ∧ (at_ .read 0x7FFFF8 []).dev.cur % 8 = 0 ∧
      (∀ x ∈ [255, 0], x < 256) ∧
      ({ at_ .read 0x7FFFF8 [(0, 0x88#8)] with inputs := [.transfer 255 8, .transfer 0 8] } : State).inputs =
        [255, 0].map (fun x => Event.transfer x 8) ++ [] := ⟨inv_of rfl (by decide), by decide⟩

theorem witness_DummyWaitEndsInRead :
    (waiting .two 8 6).Inv ∧ (waiting .two 8 6).dev.seq = .dummyWait ∧ (∀ u ∈ [(1, 1), (255, 8)], ValidUnit u.1 u.2) ∧
      [(1, 1), (255, 8)].length = (waiting .two 8 6).dev.dummyTarget - (waiting .two 8 6).dev.dummyCount ∧
      ({ waiting .two 8 6 with inputs := [.transfer 1 1, .transfer 255 8] } : State).inputs =
        [(1, 1), (255, 8)].map (fun u => Event.transfer u.1 u.2) ++ [] :=
  ⟨inv_of rfl (by decide), by decide⟩

theorem witness_DataUnitsOfOneWidthStayAligned :
    (at_ .read 0x84 []).dev.seq.Data ∧ (∃ t, step (got (at_ .read 0x84 []) (.transfer 15 4)) = .next t) ∧
      (at_ .pageProgram 0x84 []).dev.seq.Data ∧ ∃ t, step (got (at_ .pageProgram 0x84 []) (.transfer 15 4)) = .next t :=
  ⟨by decide, ⟨_, rfl⟩, by decide, _, rfl⟩

/-- No dirty page, another page dirty with a 1 over a 0, the same page dirty; on both polarities. -/
theorem witness_ProgramUnitCombinesTheBits :
    (((at_ .pageProgram 0x7FFFF8 []).setWel true).Inv ∧
      (((at_ .pageProgram 0x804 [(0x100, 0x12#8)]).setWel true).setDirty (some 0)).Inv ∧
      (((at_ .pageProgram 0x804 [(0x100, 0x12#8)]).setWel true).setDirty (some 1)).Inv ∧
      (((at_ .pageProgram 1 [(0, 0x0F#8)]).setPart partPC).setWel true).Inv) ∧
    (∀ s ∈ [(at_ .pageProgram 0x7FFFF8 []).setWel true, ((at_ .pageProgram 0x804 [(0x100, 0x12#8)]).setWel true).setDirty (some 0),
      ((at_ .pageProgram 1 [(0, 0x0F#8)]).setPart partPC).setWel true], s.dev.seq = .pageProgram ∧ s.dev.wel = true) ∧
    ValidUnit 0xF0 8 ∧ ((at_ .pageProgram 0x7FFFF8 []).setWel true).dev.cur % 8 = 0 ∧ ValidUnit 0xF 4 ∧ 0x804 % 4 = 0 ∧
      ValidUnit 1 1 ∧ 1 % 1 = 0 ∧
      (got ((at_ .pageProgram 0x7FFFF8 []).setWel true) (.transfer 0xF0 8)).Waiting (.transfer 0xF0 8) [] :=
  ⟨⟨inv_of rfl (by decide), inv_of rfl (by decide), inv_of rfl (by decide), inv_of rfl (by decide)⟩, by decide⟩

theorem witness_ProgramUnitWithoutWriteEnableOnlyWarns :
    (at_ .pageProgram 0x7FFFF8 []).dev.seq = .pageProgram ∧
      (got (at_ .pageProgram 0x7FFFF8 []) (.transfer 0 8)).Waiting (.transfer 0 8) [] ∧ ValidUnit 0 8 ∧
      (at_ .pageProgram 0x7FFFF8 []).dev.cur % 8 = 0 ∧ (at_ .pageProgram 0x7FFFF8 []).dev.cur < resetPart.capBits ∧
      (at_ .pageProgram 0x7FFFF8 []).dev.wel = false := by decide

theorem witness_UnitWrittenIsTheUnitRead :
    ((4 = 1 ∨ 4 = 2 ∨ 4 = 4 ∨ 4 = 8) ∧ 4 < 8 ∧ 0 < 8 ∧ 4 % 4 = 0 ∧ 0 % 4 = 0 ∧ (0xF#8 : Byte).toNat < 2 ^ 4) ∧ 7 < 8 ∧ 7 % 1 = 0 ∧ (1#8 : Byte).toNat < 2 ^ 1 := by
  decide

/-- Each of the six address erases, with the write-enable latch set. -/
theorem witness_AddressErasesSetTheRange :
    (State.reset.setWel true).dev.wel = true ∧
      eraseForm (State.reset.setWel true) (.erase4k (.a3 0xFFFFFF#24)) = some (0xFFFFF, 4096, true) ∧
      eraseForm (State.reset.setWel true) (.erase4_4k 0xFFFFFFFF#32) = some (0xFFFFF, 4096, true) ∧
      eraseForm (State.reset.setWel true) (.erase32k (.a4 0#32)) = some (0, 32768, false) ∧
      eraseForm (State.reset.setWel true) (.erase4_32k 0x9ABC#32) = some (0x9ABC, 32768, false) ∧
      eraseForm (State.reset.setWel true) (.eraseSector (.a3 0x0FFFFF#24)) = some (0xFFFFF, 65536, true) ∧
      eraseForm (State.reset.setWel true) (.erase4Sector 0#32) = some (0, 65536, true) := by decide

theorem witness_AddressErasesNeedWriteEnable :
    State.reset.dev.wel = false ∧ eraseForm State.reset (.erase32k (.a3 0x009ABC#24)) = some (0x9ABC, 32768, false) ∧
      eraseForm State.reset (.erase4Sector 0#32) = some (0, 65536, true) := by decide

theorem witness_BulkErasesSetEveryByte :
    (at_ .idle 0 [(0xFFFFF, 0#8)]).dev.StorageWf Config.spec resetPart ∧ ((at_ .idle 0 [(0xFFFFF, 0#8)]).setWel true).dev.wel = true ∧
      (at_ .idle 0 [(0xFFFFF, 0#8)]).dev.wel = false := by decide

/-- An unsupported size, and a bulk erase. -/
theorem witness_UnsupportedEraseSizesStillErase :
    ((State.reset.setWel true).dev.wel = true ∧ (State.reset.setWel true).out.warns = []) ∧
    ((eraseForm (State.reset.setWel true) (.erase32k (.a3 0#24))).isSome = true ∧
      (∃ t, exec (.erase32k (.a3 0#24)) (State.reset.setWel true) = .next t) ∧
      ∃ t, exec (.erase32k (.a3 0#24))
        { State.reset.setWel true with part := { resetPart with er4k := true, er32k := true } } = .next t) ∧
    ((∃ t, exec .bulkEraseC7 (State.reset.setWel true) = .next t) ∧
      ∃ t, exec .bulkEraseC7 { State.reset.setWel true with part := { resetPart with er4k := true, er32k := true } } = .next t) :=
  ⟨by decide, ⟨by decide, ⟨_, rfl⟩, _, rfl⟩, ⟨_, rfl⟩, _, rfl⟩

/-- A program unit, a bulk erase and a configuration write without write-enable, and an honored reset. -/
theorem witness_NothingMutatesWithoutWriteEnable :
    (State.reset.dev.wel = false ∧ (State.reset.setRstEn true).dev.wel = false ∧ (at_ .pageProgram 0 []).dev.wel = false) ∧
      (∃ t, step (got (at_ .pageProgram 0 []) (.transfer 0 8)) = .next t) ∧
      (∃ t, step (got .reset (.transfer 0xC7 8)) = .next t) ∧ (∃ t, step (collecting .reset .brwr 1 [] 3) = .next t) ∧
      ∃ t, step (got (State.reset.setRstEn true) (.transfer 0x99 8)) = .next t :=
  ⟨by decide, ⟨_, rfl⟩, ⟨_, rfl⟩, ⟨_, rfl⟩, _, rfl⟩

/-- The ways a byte changes: power-on, a restore, a program unit, a bulk erase, an address erase. -/
theorem witness_StorageChangesOnlyByProgramAndErase :
    (∃ t, step (got .reset (.powerOn resetPart (some [(5, 0x42#8)]))) = .next t ∧ t.memRead 5 ≠ 0xFF#8) ∧
    (∃ t, step (got .reset (.restore { part := resetPart, dev := (at_ .idle 0 [(5, 0x42#8)]).dev })) = .next t ∧ t.memRead 5 ≠ 0xFF#8) ∧
    ((got ((at_ .pageProgram 0x28 []).setWel true) (.transfer 0x42 8)).Inv ∧
      ∃ t, step (got ((at_ .pageProgram 0x28 []).setWel true) (.transfer 0x42 8)) = .next t ∧ t.memRead 5 ≠ 0xFF#8) ∧
    ((got ((at_ .idle 0 [(5, 0x42#8)]).setWel true) (.transfer 0x60 8)).Inv ∧
      ∃ t, step (got ((at_ .idle 0 [(5, 0x42#8)]).setWel true) (.transfer 0x60 8)) = .next t ∧ t.memRead 5 ≠ 0x42#8) ∧
    ((collecting ((at_ .idle 0 [(5, 0x42#8)]).setWel true) .erase4k 3 [0#8, 0#8] 0xFF).Inv ∧
      ∃ t, step (collecting ((at_ .idle 0 [(5, 0x42#8)]).setWel true) .erase4k 3 [0#8, 0#8] 0xFF) = .next t ∧
        t.memRead 5 ≠ 0x42#8) :=
  ⟨⟨_, rfl, by decide⟩, ⟨_, rfl, by decide⟩, ⟨inv_of rfl (by decide), _, rfl, by decide⟩, ⟨inv_of rfl (by decide), _, rfl, by decide⟩,
    inv_of rfl (by decide), _, rfl, by decide⟩

/-- A response that ends (both of its bytes), and a cyclic one sent twice. -/
theorem witness_ResponsesStreamInOrder :
    ((State.reset.loadResponse [0xEF#8, 0x13#8] false).Inv ∧ (State.reset.loadResponse [0x02#8] true).Inv) ∧
      (State.reset.loadResponse [0xEF#8, 0x13#8] false).dev.seq = .streamingResponse ∧
      (State.reset.loadResponse [0xEF#8, 0x13#8] false).dev.rpos + 1 < (State.reset.loadResponse [0xEF#8, 0x13#8] false).dev.rbuf.length ∧
      (State.reset.loadResponse [0x02#8] true).dev.rcyclic = true ∧ (∀ x ∈ [255, 1], x < 256) ∧
      ({ State.reset with inputs := [.transfer 255 8, .transfer 1 8] } : State).inputs =
        [255, 1].map (fun x => Event.transfer x 8) ++ [] :=
  ⟨⟨inv_of rfl (by decide), inv_of rfl (by decide)⟩, by decide⟩

theorem witness_SelectResetsTheDecodeState :
    (got .reset (.select true)).Waiting (.select true) [] ∧ (got .reset (.select false)).Waiting (.select false) [] := by decide

/-- A rescaled wait, the same width, and no wait. -/
theorem witness_BusWidthRescalesTheRemainingWait :
    ((waiting .one 8 7).Inv ∧ (waiting .four 15 0).Inv ∧ State.reset.Inv) ∧
      (waiting .one 8 7).dev.seq = .dummyWait ∧ Lines.four ≠ (waiting .one 8 7).dev.lines ∧
      State.reset.config.dummyRound = .ceiling ∧ (got .reset (.setBusWidth 4)).Waiting (.setBusWidth Lines.four.toNat) [] :=
  ⟨⟨inv_of rfl (by decide), inv_of rfl (by decide), inv_of rfl (by decide)⟩, by decide⟩

/-- Part PA without a seed, part PB with one. -/
theorem witness_PowerOnGivesTheResetValues :
    State.reset.config = Config.spec ∧
      resetPart.Wf ∧ (got .reset (.powerOn resetPart none)).Waiting (.powerOn resetPart none) [] ∧ partPB.Wf ∧
      (got .reset (.powerOn partPB (some [(5, 0x42#8)]))).Waiting (.powerOn partPB (some [(5, 0x42#8)])) [] := ⟨rfl, by decide⟩

theorem witness_PowerOnSeedsTheStorage :
    (∃ t, step (got .reset (.powerOn partPD (some [(0x4FFF, 0x42#8)]))) = .next t) ∧
      (∃ t, step (got .reset (.powerOn partPD none)) = .next t) ∧ 0x4FFF < partPD.cap := ⟨⟨_, rfl⟩, ⟨_, rfl⟩, by decide⟩

theorem witness_ResetIsPowerOnOfTheResetPart :
    (got resetPB (.powerOn resetPart none)).config = Config.spec ∧
      (got resetPB (.powerOn resetPart none)).Waiting (.powerOn resetPart none) [] := ⟨rfl, rfl⟩

theorem witness_SnapshotRestores :
    (got ((at_ .pageProgram 0x808 [(0x100, 0x12#8)]).setDirty (some 1)) .snapshot).Inv ∧
      (got ((at_ .pageProgram 0x808 [(0x100, 0x12#8)]).setDirty (some 1)) .snapshot).Waiting .snapshot [] ∧
      State.reset.config = (got ((at_ .pageProgram 0x808 [(0x100, 0x12#8)]).setDirty (some 1)) .snapshot).config ∧
      State.reset.part = (got ((at_ .pageProgram 0x808 [(0x100, 0x12#8)]).setDirty (some 1)) .snapshot).part :=
  ⟨inv_of rfl (by decide), rfl, rfl, rfl⟩

/-- An erased sink while page 1 of the storage is dirty, and a step that changes the storage. -/
theorem witness_SinkAgreesOutsideTheDirtyPage :
    (got (((at_ .pageProgram 0x1000 [(0x100, 0x12#8)]).setDirty (some 1)).setWel true) (.transfer 0 8)).Inv ∧
      (got (((at_ .pageProgram 0x1000 [(0x100, 0x12#8)]).setDirty (some 1)).setWel true) (.transfer 0 8)).SinkAgrees (fun _ => 0xFF#8) ∧
      ∃ t, step (got (((at_ .pageProgram 0x1000 [(0x100, 0x12#8)]).setDirty (some 1)).setWel true) (.transfer 0 8)) = .next t := by
  refine ⟨inv_of rfl (by decide), ?_, _, rfl⟩
  intro a _ hd
  have ha : a ≠ 0x100 := by
    rintro rfl
    exact hd ⟨1, rfl, by decide, by decide⟩
  show 0xFF#8 = Memory.read 0xFF#8 [(0x100, 0x12#8)] a
  simp only [Memory.read, if_neg ha]

theorem witness_FrameEndLeavesTheSinkEqual :
    (got ((at_ .pageProgram 0x808 [(0x100, 0x12#8)]).setDirty (some 1)) (.select false)).Inv ∧
      (got ((at_ .pageProgram 0x808 [(0x100, 0x12#8)]).setDirty (some 1)) (.select false)).Waiting (.select false) [] ∧
      (got ((at_ .pageProgram 0x808 [(0x100, 0x12#8)]).setDirty (some 1)) (.select false)).SinkAgrees (fun _ => 0xFF#8) := by
  refine ⟨inv_of rfl (by decide), rfl, ?_⟩
  intro a _ hd
  have ha : a ≠ 0x100 := by
    rintro rfl
    exact hd ⟨1, rfl, by decide, by decide⟩
  show 0xFF#8 = Memory.read 0xFF#8 [(0x100, 0x12#8)] a
  simp only [Memory.read, if_neg ha]

end Sys2Proof.Tests
end

section
/-! PROOF. Memory (20_memory.md): the byte order of address parameters (R71), and that the contents of storage never steer
control (R86). The second is a noninterference proof. `State.SameControl` relates two states that differ in storage and outputs
alone; each operation of the model takes related states to related states, and so does a step. -/

namespace Sys2Proof.Machine

/-! ### Byte order (R71) -/

/-- Settles O6: each field is one of the two byte-order helpers, whose values are known. -/
theorem addressBytesAreBigEndian : Obligations.AddressBytesAreBigEndian :=
  ⟨fun x y z => ⟨_, rfl, be3_toNat x y z⟩, fun w x y z => ⟨_, rfl, be4_toNat w x y z⟩,
    fun w x y z => ⟨_, rfl, be4_toNat w x y z⟩, fun x y z => ⟨_, rfl, be3_toNat x y z⟩⟩

/-! ### States that differ in storage and outputs alone -/

/-- The state with other contents of storage and other outputs. -/
def State.withStorage (s : State) (m : Memory) (o : Output) : State := { s with dev := { s.dev with mem := m }, out := o }

/-- The two states differ in storage and outputs alone. -/
def State.SameControl (s t : State) : Prop := ∃ m o, t = s.withStorage m o

/-- The two outcomes are the same stop, or next states that differ in storage and outputs alone. -/
def SameOutcome : Host.Outcome State Fault Refusal → Host.Outcome State Fault Refusal → Prop
  | .next s, .next t => s.SameControl t
  | .fault r, .fault r' => r = r'
  | .refused r, .refused r' => r = r'
  | _, _ => False

theorem SameOutcome.exists_next {t : State} {x y : Host.Outcome State Fault Refusal} (h : SameOutcome x y)
    (hx : x = .next t) : ∃ t', y = .next t' ∧ t.SameControl t' := by
  subst hx
  cases y with
  | next t' => exact ⟨t', rfl, h⟩
  | fault r => exact h.elim
  | refused r => exact h.elim

/-- Two branchings on the same condition answer alike if their branches do. -/
theorem SameOutcome.ite {c c' : Prop} [Decidable c] [Decidable c'] {x x' y y' : Host.Outcome State Fault Refusal}
    (hc : c ↔ c') (hx : SameOutcome x x') (hy : SameOutcome y y') :
    SameOutcome (if c then x else y) (if c' then x' else y') := by
  by_cases h : c
  · rwa [if_pos h, if_pos (hc.mp h)]
  · rwa [if_neg h, if_neg (mt hc.mpr h)]

namespace State.SameControl

variable {s t : State}

theorem config (h : s.SameControl t) : t.config = s.config := by obtain ⟨m, o, rfl⟩ := h; rfl
theorem part (h : s.SameControl t) : t.part = s.part := by obtain ⟨m, o, rfl⟩ := h; rfl
theorem inputs (h : s.SameControl t) : t.inputs = s.inputs := by obtain ⟨m, o, rfl⟩ := h; rfl
theorem dev (h : s.SameControl t) : t.dev = { s.dev with mem := t.dev.mem } := by obtain ⟨m, o, rfl⟩ := h; rfl
theorem mode (h : s.SameControl t) : t.mode = s.mode := by obtain ⟨m, o, rfl⟩ := h; rfl
theorem commandInFlight (h : s.SameControl t) : t.commandInFlight = s.commandInFlight := by obtain ⟨m, o, rfl⟩ := h; rfl

theorem next (h : s.SameControl t) : SameOutcome (.next s) (.next t) := h

/-- An update that neither reads storage or outputs nor writes them commutes with replacing them. -/
theorem map {f : State → State} (hf : ∀ s m o, f (s.withStorage m o) = (f s).withStorage m o) (h : s.SameControl t) :
    (f s).SameControl (f t) := by
  obtain ⟨m, o, rfl⟩ := h
  exact ⟨m, o, hf s m o⟩

/-! ### The updates that touch storage or outputs -/

theorem setMem (h : s.SameControl t) (m m' : Memory) : (s.setMem m).SameControl (t.setMem m') := by
  obtain ⟨_, o, rfl⟩ := h
  exact ⟨m', o, rfl⟩

theorem setRx (h : s.SameControl t) (v v' : Byte) : (s.setRx v).SameControl (t.setRx v') := by
  obtain ⟨m, _, rfl⟩ := h
  exact ⟨m, _, rfl⟩

theorem raise (h : s.SameControl t) (w w' : Warning) : (s.raise w).SameControl (t.raise w') := by
  obtain ⟨m, _, rfl⟩ := h
  exact ⟨m, _, rfl⟩

theorem accept (h : s.SameControl t) (rest : List Event) : (s.accept rest).SameControl (t.accept rest) := by
  obtain ⟨m, _, rfl⟩ := h
  exact ⟨m, _, rfl⟩

theorem capture (h : s.SameControl t) : s.capture.SameControl t.capture := by
  obtain ⟨m, _, rfl⟩ := h
  exact ⟨m, _, rfl⟩

theorem markDirty (h : s.SameControl t) (p : Nat) : (s.markDirty p).SameControl (t.markDirty p) := by
  obtain ⟨m, _, rfl⟩ := h
  simp only [State.markDirty_eq]
  exact ⟨m, _, rfl⟩

theorem flushDirty (h : s.SameControl t) : s.flushDirty.SameControl t.flushDirty := by
  obtain ⟨m, _, rfl⟩ := h
  simp only [State.flushDirty_eq]
  exact ⟨m, _, rfl⟩

/-- W4 depends on the old byte, so one state may raise it and the other not. -/
theorem warnZeroToOne (h : s.SameControl t) (a : Nat) (old old' fold fold' tx : Byte) (w : Nat) :
    (s.warnZeroToOne a old fold tx w).SameControl (t.warnZeroToOne a old' fold' tx w) := by
  obtain ⟨m, _, rfl⟩ := h
  unfold State.warnZeroToOne
  split <;> split <;> exact ⟨m, _, rfl⟩

/-- Whatever byte each state writes, the same page becomes dirty. -/
theorem programByte (h : s.SameControl t) (a : Nat) (v v' : Byte) :
    (s.programByte a v).SameControl (t.programByte a v') := by
  unfold State.programByte
  rw [h.part]
  exact (h.markDirty _).setMem _ _

/-- The latch that gates an erase is no part of storage, and neither is its range. -/
theorem eraseAt (h : s.SameControl t) (n len : Nat) (c : EraseCap) : (s.eraseAt n len c).SameControl (t.eraseAt n len c) := by
  obtain ⟨m, o, rfl⟩ := h
  cases hw : s.dev.wel with
  | true =>
    rw [State.eraseAt_enabled s n len c hw, State.eraseAt_enabled (s.withStorage m o) n len c hw]
    exact ⟨_, _, rfl⟩
  | false =>
    rw [State.eraseAt_blocked s n len c hw, State.eraseAt_blocked (s.withStorage m o) n len c hw]
    exact ⟨_, _, rfl⟩

/-! ### The shared operations of the decoder and of the commands -/

theorem clearResetEnable (h : s.SameControl t) (b : Byte) : (s.clearResetEnable b).SameControl (t.clearResetEnable b) := by
  unfold State.clearResetEnable
  rw [h.config]
  split
  · exact h
  · exact h.map (f := (·.setRstEn false)) fun _ _ _ => rfl

theorem acceptOpcode (h : s.SameControl t) (b : Byte) (op : Op) : (s.acceptOpcode b op).SameControl (t.acceptOpcode b op) :=
  (h.clearResetEnable b).map (f := (·.beginCommand b (hintOf op))) fun _ _ _ => rfl

theorem computeTarget (h : s.SameControl t) (a : Addr) : (s.computeTarget a).SameControl (t.computeTarget a) :=
  h.map (f := (·.computeTarget a)) fun _ _ _ => rfl

theorem eraseCommand (h : s.SameControl t) (a : Addr) (len : Nat) (c : EraseCap) :
    (s.eraseCommand a len c).SameControl (t.eraseCommand a len c) := by
  have hc := h.computeTarget a
  unfold State.eraseCommand State.eraseHere
  rw [hc.dev]
  exact hc.eraseAt _ len c

theorem programCommand (h : s.SameControl t) (a : Addr) : (s.programCommand a).SameControl (t.programCommand a) :=
  h.map (f := (·.programCommand a)) fun _ _ _ => rfl

theorem readCommand (h : s.SameControl t) (op : Op) (a : Addr) : (s.readCommand op a).SameControl (t.readCommand op a) := by
  refine h.map (f := (·.readCommand op a)) fun s m o => ?_
  simp only [State.readCommand_eq, State.withStorage, State.target]
  split <;> rfl

theorem loadResponse (h : s.SameControl t) (bytes : List Byte) (cyclic : Bool) :
    (s.loadResponse bytes cyclic).SameControl (t.loadResponse bytes cyclic) :=
  h.map (f := (·.loadResponse bytes cyclic)) fun _ _ _ => rfl

theorem configWrite (h : s.SameControl t) {write : State → State}
    (hw : ∀ s m o, write (s.withStorage m o) = (write s).withStorage m o) :
    (s.configWrite write).SameControl (t.configWrite write) := by
  refine h.map (f := (·.configWrite write)) fun s m o => ?_
  have hwel : (s.withStorage m o).dev.wel = s.dev.wel := rfl
  rw [State.configWrite_eq, State.configWrite_eq, hw, hwel]
  split <;> rfl

theorem resetRegisters (h : s.SameControl t) : s.resetRegisters.SameControl t.resetRegisters :=
  h.map fun _ _ _ => rfl

end State.SameControl

/-! ### Every command -/

/-- The own rule of a command answers alike in two states that differ in storage and outputs alone. -/
theorem exec_sameOutcome (i : Instr) {s t : State} (h : s.SameControl t) : SameOutcome (exec i s) (exec i t) := by
  obtain ⟨m, o, rfl⟩ := id h
  cases i with
  | read a | fastRead a | dor a | qor a | dior a _ | qior a _ => exact (h.readCommand _ a).next
  | read4 v | fastRead4 v | dor4 v | qor4 v | dior4 v _ | qior4 v _ => exact (h.readCommand _ (.a4 v)).next
  | pp a | dpp a | qpp a => exact (h.programCommand a).next
  | pp4 v | pp4_4 v => exact (h.programCommand (.a4 v)).next
  | aaiWp a =>
    cases a with
    | none => exact (h.map (f := (·.setSeq .pageProgram)) fun _ _ _ => rfl).next
    | some v => exact ((h.computeTarget (.a3 v)).map (f := fun u => (u.setAai true).setSeq .pageProgram) fun _ _ _ => rfl).next
  | erase4k a | erase32k a | eraseSector a => exact (h.eraseCommand a _ _).next
  | erase4_4k v | erase4_32k v | erase4Sector v => exact (h.eraseCommand (.a4 v) _ _).next
  | bulkErase60 | bulkEraseC7 => exact (h.eraseAt 0 s.part.cap .always).next
  | rdsr | readFsr | brrd | extendAddrRead | jedecRead | rdid90 | rnvcr | rvcr | revcr =>
    exact (h.loadResponse _ _).next
  | wnvcr _ | wvcr _ | wevcr _ | extendAddrWrite _ | brwr _ => exact (h.configWrite fun _ _ _ => rfl).next
  | wrsr _ => exact (h.map (f := fun u => (u.setWel false).setSeq .idle) fun _ _ _ => rfl).next
  | wren => exact (h.map (f := fun u => (u.setWel true).setSeq .idle) fun _ _ _ => rfl).next
  | wrdi => exact (h.map (f := fun u => ((u.setWel false).setAai false).setSeq .idle) fun _ _ _ => rfl).next
  | resetEnable => exact (h.map (f := fun u => (u.setRstEn true).setSeq .idle) fun _ _ _ => rfl).next
  | en4b => exact (h.map (f := fun u => (u.setA4b true).setSeq .idle) fun _ _ _ => rfl).next
  | ex4b => exact (h.map (f := fun u => (u.setA4b false).setSeq .idle) fun _ _ _ => rfl).next
  | resetMemory =>
    show (if s.dev.rstEn then s.resetRegisters else s.setSeq .idle).SameControl
      (if s.dev.rstEn then (s.withStorage m o).resetRegisters else (s.withStorage m o).setSeq .idle)
    split
    · exact h.resetRegisters
    · exact h.map (f := (·.setSeq .idle)) fun _ _ _ => rfl

/-! ### The decoder and the collector (R131, R132) -/

section
variable {s t : State}

theorem decodeOpcode_sameOutcome (b : Byte) (h : s.SameControl t) : SameOutcome (decodeOpcode b s) (decodeOpcode b t) := by
  unfold decodeOpcode
  rw [h.config, h.mode]
  split
  · exact ((h.clearResetEnable b).raise _ _).next
  · split
    · split
      · exact exec_sameOutcome _ (h.acceptOpcode b _)
      · rfl
    · exact ((h.acceptOpcode b _).map (f := (·.startCollect _)) fun _ _ _ => rfl).next

theorem andThen_sameOutcome {x y : Host.Outcome State Fault Refusal} {f : State → State} (h : SameOutcome x y)
    (hf : ∀ s m o, f (s.withStorage m o) = (f s).withStorage m o) : SameOutcome (andThen x f) (andThen y f) := by
  cases x <;> cases y
  case next.next => exact State.SameControl.map hf h
  all_goals exact h

theorem runIfComplete_sameOutcome (h : s.SameControl t) : SameOutcome (runIfComplete s) (runIfComplete t) := by
  unfold runIfComplete
  rw [h.commandInFlight, h.dev]
  split
  · split
    · exact andThen_sameOutcome (exec_sameOutcome _ h) fun _ _ _ => rfl
    · rfl
  · exact h.next

theorem collect_sameOutcome (b : Byte) (h : s.SameControl t) : SameOutcome (collect b s) (collect b t) :=
  runIfComplete_sameOutcome (h.map (f := (·.pushParam b)) fun _ _ _ => rfl)

/-! ### The data transfer engine (R245 to R248) -/

/-- What is programmed depends on the old byte; where the cursor goes, and whether the unit is programmed, does not. -/
theorem programUnit_sameOutcome (tx : Byte) (w : Nat) (h : s.SameControl t) :
    SameOutcome (programUnit tx w s) (programUnit tx w t) := by
  obtain ⟨m, o, rfl⟩ := id h
  have advance {u v : State} (huv : u.SameControl v) : (u.advance w).SameControl (v.advance w) :=
    huv.map (f := (·.advance w)) fun _ _ _ => rfl
  refine SameOutcome.ite Iff.rfl rfl (SameOutcome.ite Iff.rfl ?_ ?_)
  · exact (advance ((h.warnZeroToOne _ _ _ _ _ tx w).programByte _ _ _)).next
  · exact (advance (h.raise _ _)).next

/-- The unit read is an output, so it may differ. -/
theorem readUnit_sameOutcome (w : Nat) (h : s.SameControl t) : SameOutcome (readUnit w s) (readUnit w t) := by
  obtain ⟨m, o, rfl⟩ := id h
  exact SameOutcome.ite Iff.rfl rfl ((h.setRx _ _).map (f := (·.advance w)) fun _ _ _ => rfl).next

theorem afterStream_withMem (d : Device) (m : Memory) :
    ({ d with mem := m } : Device).afterStream = { d.afterStream with mem := m } := by
  simp only [Device.afterStream]
  split
  · split <;> rfl
  · rfl

theorem streamUnit_sameOutcome (h : s.SameControl t) : SameOutcome (streamUnit s) (streamUnit t) := by
  obtain ⟨m, o, rfl⟩ := h
  simp only [streamUnit, State.withStorage, afterStream_withMem]
  split
  · rfl
  · exact State.SameControl.next ⟨m, _, rfl⟩

theorem dummyUnit_sameOutcome (h : s.SameControl t) : SameOutcome (dummyUnit s) (dummyUnit t) := by
  obtain ⟨m, o, rfl⟩ := h
  exact SameOutcome.ite Iff.rfl (State.SameControl.next ⟨m, o, rfl⟩) (State.SameControl.next ⟨m, o, rfl⟩)

/-! ### Events and steps (R130, R9) -/

theorem transfer_sameOutcome (tx w : Nat) (h : s.SameControl t) : SameOutcome (transfer tx w s) (transfer tx w t) := by
  unfold transfer
  rw [h.dev]
  split
  · cases s.dev.seq <;> simp only
    case idle => split; exacts [decodeOpcode_sameOutcome _ h, rfl]
    case collectingParams => split; exacts [collect_sameOutcome _ h, rfl]
    case streamingResponse => split; exacts [streamUnit_sameOutcome h, rfl]
    case pageProgram => split; exacts [programUnit_sameOutcome _ w h, rfl]
    case read => split; exacts [readUnit_sameOutcome w h, rfl]
    case dummyWait => exact dummyUnit_sameOutcome h
  · rfl

theorem withLines_withMem (r : Rounding) (d : Device) (m : Memory) (new : Lines) :
    ({ d with mem := m } : Device).withLines r new = { d.withLines r new with mem := m } := by
  simp only [Device.withLines]
  split <;> rfl

theorem setBusWidth_sameOutcome (l : Nat) (h : s.SameControl t) : SameOutcome (setBusWidth l s) (setBusWidth l t) := by
  obtain ⟨m, o, rfl⟩ := h
  simp only [setBusWidth, State.withStorage, withLines_withMem]
  split
  · rfl
  · exact State.SameControl.next ⟨m, o, rfl⟩

theorem select_sameOutcome (asserted : Bool) (h : s.SameControl t) : SameOutcome (select asserted s) (select asserted t) := by
  have hr : s.resetDecode.SameControl t.resetDecode := h.map fun _ _ _ => rfl
  cases asserted with
  | true => exact hr.next
  | false => exact hr.flushDirty.next

theorem powerOn_sameOutcome (p : Part) (seed : Option Memory) (h : s.SameControl t) :
    SameOutcome (powerOn p seed s) (powerOn p seed t) := by
  obtain ⟨m, o, rfl⟩ := h
  exact SameOutcome.ite Iff.rfl (State.SameControl.next ⟨_, o, rfl⟩) rfl

theorem restore_sameOutcome (b : Blob) (h : s.SameControl t) : SameOutcome (restore b s) (restore b t) := by
  obtain ⟨m, o, rfl⟩ := h
  exact SameOutcome.ite Iff.rfl (State.SameControl.next ⟨_, o, rfl⟩) rfl

theorem handle_sameOutcome (e : Event) (h : s.SameControl t) : SameOutcome (handle e s) (handle e t) := by
  cases e with
  | powerOn p seed => exact powerOn_sameOutcome p seed h
  | select asserted => exact select_sameOutcome asserted h
  | setBusWidth l => exact setBusWidth_sameOutcome l h
  | transfer tx w => exact transfer_sameOutcome tx w h
  | snapshot => exact h.flushDirty.capture.next
  | restore b => exact restore_sameOutcome b h

/-- A step takes states that differ in storage and outputs alone to such states, or stops alike in both. -/
theorem step_sameOutcome (h : s.SameControl t) : SameOutcome (step s) (step t) := by
  unfold step stepOnce
  rw [h.inputs]
  split
  · exact (h.accept []).next
  · exact handle_sameOutcome _ (h.accept _)

end

/-- Settles O19, by the noninterference of a step. -/
theorem storageNeverSteersControl : Obligations.StorageNeverSteersControl := by
  intro s t m hstep
  have hm : s.SameControl { s with dev := { s.dev with mem := m } } := ⟨m, s.out, rfl⟩
  obtain ⟨t', ht', hsame⟩ := (step_sameOutcome hm).exists_next hstep
  exact ⟨t', ht', hsame.dev, hsame.config, hsame.part, hsame.inputs⟩

end Sys2Proof.Machine
end

section
/-! PROOF. Exceptions (60_exceptions.md): an erase size that the part does not advertise is erased all the same (R283). The
erase reads two things of the part, its sizes and what it advertises, and the second steers W3 alone. So the block is run beside
a block whose part advertises every size, and `OnlyAddsW3` says how the two results compare. -/

namespace Sys2Proof.Machine

/-! ### The capability that a command's erase needs (R226 to R233) -/

/-- The capability of the erase that an opcode performs; `none` for an opcode that erases nothing. -/
def eraseCapOf : Op → Option EraseCap
  | .erase4k | .erase4_4k => some .er4k
  | .erase32k | .erase4_32k => some .er32k
  | .eraseSector | .erase4Sector | .bulkErase60 | .bulkEraseC7 => some .always
  | _ => none

theorem exists_eraseCapOf {s : State} {i : Instr} (h : (eraseForm s i).isSome ∨ i = .bulkEraseC7 ∨ i = .bulkErase60) :
    ∃ c, eraseCapOf i.op = some c := by
  rcases h with h | rfl | rfl
  · cases i with
    | erase4k _ | erase4_4k _ => exact ⟨.er4k, rfl⟩
    | erase32k _ | erase4_32k _ => exact ⟨.er32k, rfl⟩
    | eraseSector _ | erase4Sector _ => exact ⟨.always, rfl⟩
    | _ => simp [eraseForm] at h
  · exact ⟨.always, rfl⟩
  · exact ⟨.always, rfl⟩

/-- Only the two sub-sector sizes can be missing from a part. -/
theorem not_advertises_iff (p : Part) {op : Op} {c : EraseCap} (h : eraseCapOf op = some c) :
    p.advertises c = false ↔
      (p.er4k = false ∧ (op = .erase4k ∨ op = .erase4_4k)) ∨ (p.er32k = false ∧ (op = .erase32k ∨ op = .erase4_32k)) := by
  cases op with
  | erase4k | erase4_4k | erase32k | erase4_32k | eraseSector | erase4Sector | bulkErase60 | bulkEraseC7 =>
    cases h; simp [Part.advertises]
  | _ => cases h

/-! ### The same block with a part that advertises every size -/

/-- The state with a part of the same sizes that advertises every erase size. -/
def State.advertisingAll (s : State) : State := s.setPart { s.part with er4k := true, er32k := true }

@[simp] theorem State.advertisingAll_dev (s : State) : s.advertisingAll.dev = s.dev := rfl
@[simp] theorem State.advertisingAll_out (s : State) : s.advertisingAll.out = s.out := rfl

@[simp] theorem State.advertisingAll_advertises (s : State) (c : EraseCap) : s.advertisingAll.part.advertises c = true := by
  cases c <;> rfl

/-- The range of an erase does not depend on what the part advertises. -/
@[simp] theorem State.advertisingAll_eraseRange (s : State) (n len : Nat) :
    eraseRange s.advertisingAll.part n len = eraseRange s.part n len := rfl

/-- From `s`, the results `t` of the block and `t'` of the block that advertises every size differ in no more than W3, which
`t` has when the part of `s` lacks the capability. -/
def OnlyAddsW3 (s : State) (c : EraseCap) (t t' : State) : Prop :=
  t.dev = t'.dev ∧ t.out.sinks = t'.out.sinks ∧ t'.out.warns = s.out.warns ∧
    t.out.warns = s.out.warns ++ (if s.part.advertises c then [] else [.eraseUnsupported s.dev.cmd])

/-! ### The erase (R225, R283) -/

section
variable {s : State}

theorem State.eraseAt_onlyAddsW3 (n len : Nat) (c : EraseCap) (hw : s.dev.wel = true) :
    OnlyAddsW3 s c (s.eraseAt n len c) (s.advertisingAll.eraseAt n len c) := by
  rw [State.eraseAt_enabled s n len c hw, State.eraseAt_enabled s.advertisingAll n len c hw]
  simp [OnlyAddsW3]

/-- The target of an address is the same for both parts, so the erase runs at the same place. -/
theorem State.eraseCommand_onlyAddsW3 (a : Addr) (len : Nat) (c : EraseCap) (hw : s.dev.wel = true) :
    OnlyAddsW3 s c (s.eraseCommand a len c) (s.advertisingAll.eraseCommand a len c) := by
  rw [State.eraseCommand_eq, State.eraseCommand_eq]
  exact (s.setCur (s.target a * 8)).eraseAt_onlyAddsW3 (s.target a) len c hw

theorem exec_erase_onlyAddsW3 {i : Instr} {c : EraseCap} {t t' : State} (hc : eraseCapOf i.op = some c)
    (hw : s.dev.wel = true) (h : exec i s = .next t) (h' : exec i s.advertisingAll = .next t') : OnlyAddsW3 s c t t' := by
  cases i with
  | erase4k a | erase32k a | eraseSector a => cases hc; cases h; cases h'; exact State.eraseCommand_onlyAddsW3 a _ _ hw
  | erase4_4k v | erase4_32k v | erase4Sector v =>
    cases hc; cases h; cases h'; exact State.eraseCommand_onlyAddsW3 (.a4 v) _ _ hw
  | bulkErase60 | bulkEraseC7 => cases hc; cases h; cases h'; exact State.eraseAt_onlyAddsW3 0 _ _ hw
  | _ => cases hc

end

/-- Settles O48, by comparison with a block whose part advertises every erase size. -/
theorem unsupportedEraseSizesStillErase : Obligations.UnsupportedEraseSizesStillErase := by
  intro s t t' i hw hwarns herase h h'
  obtain ⟨c, hc⟩ := exists_eraseCapOf herase
  obtain ⟨hdev, hsinks, hwarns', hw3⟩ := exec_erase_onlyAddsW3 hc hw h h'
  rw [hwarns] at hwarns' hw3
  refine ⟨hdev, hsinks, hwarns', ?_⟩
  rw [← not_advertises_iff s.part hc, hw3]
  cases s.part.advertises c <;> simp

end Sys2Proof.Machine
end

section
/-! PROOF. Reset and hazards (70_reset_and_hazards.md): `PowerOn` seeds the storage (R311), and the reset of the registers that
follows keeps it (R312). -/

namespace Sys2Proof.Machine

/-- A `PowerOn` that completes attaches the part and its storage, then resets the registers (R310). -/
theorem step_powerOn_next {s t : State} {p : Part} {seed : Option Memory} {rest : List Event}
    (hin : s.Waiting (.powerOn p seed) rest) (h : step s = .next t) :
    t = (((s.accept rest).setPart p).setDev (attached s.config p seed)).resetRegisters := by
  rw [step_waiting hin] at h
  exact (powerOn_next h).2

theorem State.resetRegisters_memRead (s : State) (a : Nat) : s.resetRegisters.memRead a = s.memRead a := rfl

/-- `SeedStorage` without a seed (R311). -/
theorem attached_read_of_no_seed (c : Config) (p : Part) (a : Nat) :
    (attached c p none).mem.read c.erased a = c.erased :=
  Memory.read_nil a

/-- `SeedStorage` with a seed (R311): bringing the cells into the canonical form loses no byte below the capacity. -/
theorem attached_read_of_seed (c : Config) (p : Part) (cells : Memory) {a : Nat} (ha : a < p.cap) :
    (attached c p (some cells)).mem.read c.erased a = cells.read c.erased a := by
  obtain ⟨-, -, hread⟩ := Memory.ofSeed_spec (e := c.erased) p.cap cells
  exact (hread a).trans (if_pos ha)

/-- Settles O55: the reset of the registers emits nothing and keeps the storage that was seeded. -/
theorem powerOnSeedsTheStorage : Obligations.PowerOnSeedsTheStorage := by
  refine ⟨rfl, fun s t p seed rest hin h => ?_⟩
  obtain rfl := step_powerOn_next hin h
  refine ⟨Output.empty_sinks, fun a ha => ?_⟩
  rw [State.resetRegisters_memRead]
  cases seed with
  | none => exact attached_read_of_no_seed s.config p a
  | some cells => exact attached_read_of_seed s.config p cells ha

end Sys2Proof.Machine
end

section
/-! PROOF. Encoding (30_encoding.md): decoding and encoding are inverse on the commands that a mode can carry (R100 to R107). The
key facts are two lemmas about the parameter bytes alone: those of a command give it back, and bytes of the length that the
opcode asks for are those of exactly one command. -/

namespace Sys2Proof

/-! ### The parameter bytes of a command -/

/-- The length of an address field is the one that the mode asks for (R102). -/
theorem Addr.bytes_length_of_fits {m : DecodeMode} {a : Addr} (h : a.fits m = true) :
    a.bytes.length = if m.a4b then 4 else 3 := by
  cases a <;> simp_all [Addr.fits, Addr.bytes_length]

/-- A command that the mode can carry has as many parameter bytes as its opcode asks for (R103). -/
theorem Instr.params_length {m : DecodeMode} {i : Instr} (h : i.formed m = true) : i.params.length = needOf m i.op := by
  cases i with
  | read a | fastRead a | dor a | qor a | pp a | dpp a | qpp a | erase4k a | erase32k a | eraseSector a =>
    exact Addr.bytes_length_of_fits h
  | dior a x | qior a x =>
    obtain ⟨ha, hx⟩ := Bool.and_eq_true_iff.mp h
    simp only [Instr.params, List.length_append, Addr.bytes_length_of_fits ha, of_decide_eq_true hx]
    rfl
  | dior4 v x | qior4 v x =>
    simp only [Instr.params, List.length_append, bytesOf4_length, of_decide_eq_true h]
    rfl
  | aaiWp a => cases a <;> simp_all [Instr.params, Instr.formed, needOf, formatOf, Instr.op, addrLen]
  | _ => rfl

/-- The parameter bytes of a command give it back (R104). -/
theorem instrOfParams_params {m : DecodeMode} {i : Instr} (h : i.formed m = true) :
    instrOfParams i.op (extraLen m.config m.variant i.op) i.params = some i := by
  cases i with
  | read a | fastRead a | dor a | qor a | pp a | dpp a | qpp a | erase4k a | erase32k a | eraseSector a =>
    simp [instrOfParams, Instr.op, Instr.params, extraLen]
  | read4 v | fastRead4 v | dor4 v | qor4 v | pp4 v | pp4_4 v | erase4_4k v | erase4_32k v | erase4Sector v =>
    simp only [instrOfParams, Instr.op, Instr.params, extraLen, Nat.sub_zero, List.take_length, addr4OfBytes_bytes,
      Option.map_some]
  | dior a x | qior a x =>
    obtain ⟨-, hx⟩ := Bool.and_eq_true_iff.mp h
    simp [instrOfParams, Instr.op, Instr.params, extraLen, ← of_decide_eq_true hx]
  | dior4 v x | qior4 v x =>
    simp only [instrOfParams, Instr.op, Instr.params, extraLen, ← of_decide_eq_true h, List.length_append, Nat.add_sub_cancel,
      List.take_left, List.drop_left, addr4OfBytes_bytes, Option.map_some]
  | aaiWp a => cases a <;> simp [instrOfParams, Instr.op, Instr.params, bytesOf3, be3_bytes]
  | wnvcr v => simp [instrOfParams, Instr.op, Instr.params, le2_bytes]
  | _ => rfl

/-- In the mode `m` the bytes `ps` are the parameter bytes of a command of the opcode `op`. -/
def HasCommand (m : DecodeMode) (op : Op) (ps : List Byte) : Prop :=
  ∃ i, instrOfParams op (extraLen m.config m.variant op) ps = some i ∧ i.op = op ∧ i.params = ps ∧ i.formed m = true

namespace HasCommand

variable {m : DecodeMode} {op : Op} {ps : List Byte}

/-- Bytes of the length that the mode asks of an address field and `x` more are an address field and the rest (R71, R102). -/
theorem exists_addr {x : Nat} (h : ps.length = (if m.a4b then 4 else 3) + x) :
    ∃ a, addrOfBytes (ps.take (ps.length - x)) = some a ∧ a.bytes ++ ps.drop (ps.length - x) = ps ∧ a.fits m = true ∧
      (ps.drop (ps.length - x)).length = x := by
  have hlen : (ps.take (ps.length - x)).length = if m.a4b then 4 else 3 := by rw [List.length_take]; omega
  have hdrop : (ps.drop (ps.length - x)).length = x := by rw [List.length_drop]; omega
  have field (qs : List Byte) (hq : qs.length = if m.a4b then 4 else 3) :
      ∃ a, addrOfBytes qs = some a ∧ a.bytes = qs ∧ a.fits m = true := by
    cases ha : m.a4b <;> simp only [ha, Bool.false_eq_true, if_true, if_false] at hq
    · obtain ⟨x, y, z, rfl⟩ := List.length_eq_three.mp hq
      exact ⟨.a3 (be3 x y z), rfl, bytesOf3_be3 x y z, by simp [Addr.fits, ha]⟩
    · match qs, hq with
      | [w, x, y, z], _ => exact ⟨.a4 (be4 w x y z), rfl, bytesOf4_be4 w x y z, by simp [Addr.fits, ha]⟩
  obtain ⟨a, ha, hbytes, hfits⟩ := field _ hlen
  exact ⟨a, ha, by rw [hbytes, List.take_append_drop], hfits, hdrop⟩

/-- Four bytes and `x` more are a 4-byte address field and the rest (R71). -/
theorem exists_addr4 {x : Nat} (h : ps.length = 4 + x) :
    ∃ v, addr4OfBytes (ps.take (ps.length - x)) = some v ∧ bytesOf4 v ++ ps.drop (ps.length - x) = ps ∧
      (ps.drop (ps.length - x)).length = x := by
  have hlen : (ps.take (ps.length - x)).length = 4 := by rw [List.length_take]; omega
  have hdrop : (ps.drop (ps.length - x)).length = x := by rw [List.length_drop]; omega
  have field (qs : List Byte) (hq : qs.length = 4) : ∃ v, addr4OfBytes qs = some v ∧ bytesOf4 v = qs :=
    match qs, hq with
    | [w, x, y, z], _ => ⟨be4 w x y z, rfl, bytesOf4_be4 w x y z⟩
  obtain ⟨v, hv, hbytes⟩ := field _ hlen
  exact ⟨v, hv, by rw [hbytes, List.take_append_drop], hdrop⟩

/-- Parameter bytes of the length that the opcode asks for are those of a command (R101 to R104). -/
theorem of_length (h : ps.length = needOf m op) : HasCommand m op ps := by
  cases op with
  | read | fastRead | dor | qor | pp | dpp | qpp | erase4k | erase32k | eraseSector =>
    obtain ⟨a, ha, hbytes, hfits, -⟩ := exists_addr (m := m) (x := 0) h
    exact ⟨_, congrArg (Option.map _) ha, rfl, by simpa [Instr.params] using hbytes, hfits⟩
  | read4 | fastRead4 | dor4 | qor4 | pp4 | pp4_4 | erase4_4k | erase4_32k | erase4Sector =>
    obtain ⟨v, hv, hbytes, -⟩ := exists_addr4 (x := 0) h
    exact ⟨_, congrArg (Option.map _) hv, rfl, by simpa [Instr.params] using hbytes, rfl⟩
  | dior | qior =>
    obtain ⟨a, ha, hbytes, hfits, hmode⟩ := exists_addr (m := m) h
    exact ⟨_, congrArg (Option.map _) ha, rfl, hbytes, Bool.and_eq_true_iff.mpr ⟨hfits, decide_eq_true hmode⟩⟩
  | dior4 | qior4 =>
    obtain ⟨v, hv, hbytes, hmode⟩ := exists_addr4 h
    exact ⟨_, congrArg (Option.map _) hv, rfl, hbytes, decide_eq_true hmode⟩
  | wrsr | wvcr | wevcr | extendAddrWrite | brwr =>
    obtain ⟨b, rfl⟩ := List.length_eq_one_iff.mp h
    exact ⟨_, rfl, rfl, rfl, rfl⟩
  | wnvcr =>
    obtain ⟨lo, hi, rfl⟩ := List.length_eq_two.mp h
    exact ⟨_, rfl, rfl, bytesOf2_le2 lo hi, rfl⟩
  | aaiWp =>
    cases ha : m.aai
    · have hlen : ps.length = 3 := by rw [h]; simp [needOf, formatOf, ha, addrLen]
      obtain ⟨x, y, z, rfl⟩ := List.length_eq_three.mp hlen
      exact ⟨_, rfl, rfl, bytesOf3_be3 x y z, by simp [Instr.formed, ha]⟩
    · have hlen : ps.length = 0 := by rw [h]; simp [needOf, formatOf, ha]
      obtain rfl := List.length_eq_zero_iff.mp hlen
      exact ⟨_, rfl, rfl, rfl, by simp [Instr.formed, ha]⟩
  | _ =>
    obtain rfl := List.length_eq_zero_iff.mp h
    exact ⟨_, rfl, rfl, rfl, rfl⟩

end HasCommand

/-! ### Whole commands -/

/-- The bytes of an opcode in the map and of parameters in the number it asks for begin with a command, and with no other. -/
theorem decode_eq_ok_iff {m : DecodeMode} {bs : List Byte} {i : Instr} {rest : List Byte} :
    decode m bs = .ok (i, rest) ↔
      ∃ b, opOfByte m.config b = some i.op ∧ i.formed m = true ∧ bs = b :: (i.params ++ rest) := by
  constructor
  · intro h
    unfold decode at h
    split at h
    · cases h
    · rename_i b qs
      split at h
      · cases h
      · rename_i op hop
        split at h
        · cases h
        · rename_i hlen
          obtain ⟨j, hj, rfl, hparams, hformed⟩ := HasCommand.of_length (m := m) (op := op) (ps := qs.take (needOf m op))
            (by rw [List.length_take]; omega)
          rw [hj] at h
          cases h
          exact ⟨b, hop, hformed, by rw [hparams, List.take_append_drop]⟩
  · rintro ⟨b, hop, hformed, rfl⟩
    have hlen := Instr.params_length hformed
    simp only [decode, hop, List.length_append, hlen, Nat.not_lt.mpr (Nat.le_add_right _ _), if_false]
    rw [List.take_left' hlen, List.drop_left' hlen, instrOfParams_params hformed]

/-- The encoding of a command whose opcode the map holds. -/
theorem encode_eq {c : Config} {i : Instr} {b : Byte} (h : byteOfOp c i.op = some b) : encode c i = b :: i.params := by
  simp [encode, h]

/-- Settles O1: the map gives the opcode byte its opcode back, and the parameter bytes give the command back. -/
theorem decodeOfEncodeGivesTheCommand : Obligations.DecodeOfEncodeGivesTheCommand := by
  intro m i rest hc hw
  obtain ⟨hbyte, hformed⟩ := Bool.and_eq_true_iff.mp hw
  obtain ⟨b, hb⟩ := Option.isSome_iff_exists.mp hbyte
  rw [encode_eq hb, List.cons_append]
  exact decode_eq_ok_iff.mpr ⟨b, (opOfByte_iff_byteOfOp hc).mpr hb, hformed, rfl⟩

/-- Settles O2: the decoder takes the opcode byte and the parameter bytes, and the two ways to read the map agree. -/
theorem decodedBytesAreTheEncoding : Obligations.DecodedBytesAreTheEncoding := by
  intro m bs i rest hc h
  obtain ⟨b, hop, hformed, rfl⟩ := decode_eq_ok_iff.mp h
  have hb := (opOfByte_iff_byteOfOp hc).mp hop
  exact ⟨by simp [Instr.wellFormed, hb, hformed], by rw [encode_eq hb, List.cons_append]⟩

/-! ### The map of the spec (R105, R111) -/

/-- A byte without an entry in the map is unrecognized (R106). -/
theorem opOfByte_eq_none {c : Config} {b : Byte} (h : ∀ op, (b, op) ∉ c.opcodeMap) : opOfByte c b = none := by
  cases hop : opOfByte c b with
  | none => rfl
  | some op => exact absurd (mem_of_opOfByte hop) (h op)

/-- In a map without repetitions an entry is what its byte reads as (R105). -/
theorem opOfByte_of_mem {c : Config} (hc : c.Wf) {b : Byte} {op : Op} (h : (b, op) ∈ c.opcodeMap) : opOfByte c b = some op := by
  have hf := find?_of_nodup hc.1 h
  simp only [← beq_eq_decide] at hf
  rw [opOfByte, hf, Option.map_some]

/-- A byte is recognized when the map has an entry for it (R105). -/
theorem opOfByte_ne_none_iff {c : Config} {b : Byte} : opOfByte c b ≠ none ↔ b ∈ c.opcodeMap.map (·.1) := by
  simp [opOfByte]

/-- A map without repetitions recognizes as many of the 256 bytes as it has entries (R105, R106). -/
theorem length_unknown_bytes {c : Config} (hc : c.Wf) :
    ((List.range 256).filter (fun n => opOfByte c (BitVec.ofNat 8 n) = none)).length + c.opcodeMap.length = 256 := by
  have hknown : ((List.range 256).filter (fun n => !decide (opOfByte c (BitVec.ofNat 8 n) = none))).Perm
      ((c.opcodeMap.map (·.1)).map BitVec.toNat) := by
    refine (List.perm_ext_iff_of_nodup (List.nodup_range.filter _)
      (hc.1.map fun _ _ => BitVec.eq_of_toNat_eq)).mpr fun n => ?_
    simp only [List.mem_filter, List.mem_range, Bool.not_eq_true', decide_eq_false_iff_not, ← ne_eq, opOfByte_ne_none_iff]
    rw [List.mem_map (f := BitVec.toNat)]
    constructor
    · rintro ⟨hn, hb⟩
      exact ⟨_, hb, by rw [BitVec.toNat_ofNat]; omega⟩
    · rintro ⟨b, hb, rfl⟩
      exact ⟨b.isLt, by rwa [BitVec.ofNat_toNat, BitVec.setWidth_eq]⟩
  have hlen := hknown.length_eq
  rw [List.length_map, List.length_map] at hlen
  rw [← hlen, ← List.length_eq_length_filter_add, List.length_range]

/-- The ceiling is the least number of units of `b` that covers `a` (R8, R250). -/
theorem divide_ceiling_le_iff {a b n : Nat} (hb : 0 < b) : Rounding.ceiling.divide a b ≤ n ↔ a ≤ n * b := by
  rw [Rounding.divide, ← Nat.lt_succ_iff, Nat.div_lt_iff_lt_mul hb, Nat.succ_mul]
  omega

/-- Settles O3, by running the decoder on each frame. -/
theorem specFramesDecode : Obligations.SpecFramesDecode := by
  refine ⟨?_, ?_, ?_, ?_, ?_, ?_⟩ <;> decide

/-- Settles O4: the search of the map fails for a byte that it does not hold, and the entries of the map of the spec are the ones
listed, in their order. -/
theorem bytesOutsideTheMapAreUnknown : Obligations.BytesOutsideTheMapAreUnknown := by
  refine ⟨fun m b rest h => by simp only [decode, opOfByte_eq_none h], fun r hr => ?_, ?_⟩
  · have hmem : (BitVec.ofNat 8 r.1, r.2) ∈ Config.specOpcodeMap :=
      List.mem_map_of_mem (f := fun r => (BitVec.ofNat 8 r.1, r.2)) hr
    have hop := opOfByte_of_mem Config.spec_wf hmem
    exact ⟨hop, (opOfByte_iff_byteOfOp Config.spec_wf).mp hop⟩
  · have hcount := length_unknown_bytes Config.spec_wf
    have hlen : Config.spec.opcodeMap.length = 47 := rfl
    omega

/-- Settles O5. -/
theorem parametersHaveTheSpecsValues : Obligations.ParametersHaveTheSpecsValues := by
  refine ⟨Config.spec_wf, rfl, rfl, rfl, rfl, rfl, rfl, rfl, rfl, rfl, rfl, rfl, rfl, rfl, spec_dummyUnits, fun a b hb => ?_⟩
  exact ⟨(divide_ceiling_le_iff hb).mp le_rfl, fun n hn => (divide_ceiling_le_iff hb).mpr hn⟩

end Sys2Proof
end

section
/-! PROOF. What a command can do. `exec_completes` says it once for all commands, by the shared ending of each (R134, R135, R175,
R225, R312); what every command keeps, what it leaves in the latches and registers, and that it keeps the invariant, follow from
that. -/

namespace Sys2Proof.Machine

/-! ### Latches and registers (R29 to R38) -/

/-- The fields of `S` that hold across commands and frames besides the cursor, the bus width and storage: the four latches and
the four configuration registers (R29 to R38). -/
structure Latches where
  wel   : Bool
  rstEn : Bool
  a4b   : Bool
  aai   : Bool
  ear   : Byte
  nvcfg : BitVec 16
  vcfg  : Byte
  evcfg : Byte

/-- The latches and registers of a block. -/
def Device.latches (d : Device) : Latches where
  wel := d.wel
  rstEn := d.rstEn
  a4b := d.a4b
  aai := d.aai
  ear := d.ear
  nvcfg := d.nvcfg
  vcfg := d.vcfg
  evcfg := d.evcfg

/-- All latches and registers replaced. -/
def State.setLatches (s : State) (l : Latches) : State :=
  { s with dev := { s.dev with
      wel := l.wel, rstEn := l.rstEn, a4b := l.a4b, aai := l.aai, ear := l.ear, nvcfg := l.nvcfg, vcfg := l.vcfg
      evcfg := l.evcfg } }

/-- What a command leaves in the latches and registers (R150 to R155, R175 to R181, R215, R312). -/
def latchesAfter (i : Instr) (s : State) : Latches :=
  let l := s.dev.latches
  match i with
  | .wren => { l with wel := true }
  | .wrdi => { l with wel := false, aai := false }
  | .wrsr _ => { l with wel := false }
  | .resetEnable => { l with rstEn := true }
  | .en4b => { l with a4b := true }
  | .ex4b => { l with a4b := false }
  | .aaiWp (some _) => { l with aai := true }
  | .resetMemory => if s.dev.rstEn then s.resetRegisters.dev.latches else l
  | .wnvcr v => if s.dev.wel then { l with nvcfg := v } else l
  | .wvcr b => if s.dev.wel then { l with vcfg := b } else l
  | .wevcr b => if s.dev.wel then { l with evcfg := b } else l
  | .extendAddrWrite b | .brwr b => if s.dev.wel then { l with ear := b } else l
  | _ => l

/-! ### Every command -/

/-- How a command ends: what the command `i` can make of the state `s`. -/
inductive Completes (s : State) (i : Instr) : State → Prop
  /-- The latch commands, the register writes, and RESET_MEMORY without effect (R150 to R155, R175, R176). -/
  | latched (l : Latches) : Completes s i ((s.setLatches l).setSeq .idle)
  /-- The register reads (R135). -/
  | response (bytes : List Byte) (cyclic : Bool) (hformat : formatOf i.op = .fr) (hpos : 0 < bytes.length)
      (hlen : bytes.length ≤ 5) : Completes s i (s.loadResponse bytes cyclic)
  /-- The reads (R134). -/
  | read (op : Op) (a : Addr) : Completes s i (s.readCommand op a)
  /-- The program commands with an address (R210 to R215). -/
  | program (a : Addr) (aai : Bool) : Completes s i ((s.setAai aai).programCommand a)
  /-- The continue form of AAI_WP (R215). -/
  | programOn : Completes s i (s.setSeq .pageProgram)
  /-- The address erases (R226 to R231). -/
  | erase (a : Addr) (len : Nat) (c : EraseCap) (hcap : eraseCapOf i.op = some c) : Completes s i (s.eraseCommand a len c)
  /-- The bulk erases (R232, R233). -/
  | bulkErase (hcap : eraseCapOf i.op = some .always) : Completes s i (s.eraseAt 0 s.part.cap .always)
  /-- RESET_MEMORY, honored (R153). -/
  | reset : Completes s i s.resetRegisters

/-- The identification has three bytes or five (R164). -/
theorem jedecBytes_length (p : Part) : 0 < (jedecBytes p).length ∧ (jedecBytes p).length ≤ 5 := by
  unfold jedecBytes
  split <;> simp

/-- A configuration write stores under write-enable and returns to `IDLE` (R175). -/
theorem State.configWrite_completes {s : State} {i : Instr} {write : State → State} {l : Latches}
    (hw : write s = s.setLatches l) : Completes s i (s.configWrite write) := by
  rw [State.configWrite_eq]
  split
  · rw [hw]
    exact .latched l
  · exact .latched s.dev.latches

/-- Every command completes, in one of these ways (R131, R132, R290). -/
theorem exec_completes (i : Instr) (s : State) : ∃ t, exec i s = .next t ∧ Completes s i t := by
  cases i with
  | read a | fastRead a | dor a | qor a | dior a _ | qior a _ => exact ⟨_, rfl, .read _ a⟩
  | read4 v | fastRead4 v | dor4 v | qor4 v | dior4 v _ | qior4 v _ => exact ⟨_, rfl, .read _ (.a4 v)⟩
  | pp a | dpp a | qpp a => exact ⟨_, rfl, .program a s.dev.aai⟩
  | pp4 v | pp4_4 v => exact ⟨_, rfl, .program (.a4 v) s.dev.aai⟩
  | aaiWp a =>
    cases a with
    | none => exact ⟨_, rfl, .programOn⟩
    | some v => exact ⟨_, rfl, .program (.a3 v) true⟩
  | erase4k a | erase32k a | eraseSector a => exact ⟨_, rfl, .erase a _ _ rfl⟩
  | erase4_4k v | erase4_32k v | erase4Sector v => exact ⟨_, rfl, .erase (.a4 v) _ _ rfl⟩
  | bulkErase60 | bulkEraseC7 => exact ⟨_, rfl, .bulkErase rfl⟩
  | jedecRead =>
    obtain ⟨hpos, hlen⟩ := jedecBytes_length s.part
    exact ⟨_, rfl, .response _ _ rfl hpos hlen⟩
  | rdsr | readFsr | brrd | extendAddrRead | rdid90 | rnvcr | rvcr | revcr =>
    exact ⟨_, rfl, .response _ _ rfl (by simp) (by simp)⟩
  | wnvcr v => exact ⟨_, rfl, State.configWrite_completes (l := { s.dev.latches with nvcfg := v }) rfl⟩
  | wvcr b => exact ⟨_, rfl, State.configWrite_completes (l := { s.dev.latches with vcfg := b }) rfl⟩
  | wevcr b => exact ⟨_, rfl, State.configWrite_completes (l := { s.dev.latches with evcfg := b }) rfl⟩
  | extendAddrWrite b | brwr b => exact ⟨_, rfl, State.configWrite_completes (l := { s.dev.latches with ear := b }) rfl⟩
  | wrsr _ => exact ⟨_, rfl, .latched { s.dev.latches with wel := false }⟩
  | wren => exact ⟨_, rfl, .latched { s.dev.latches with wel := true }⟩
  | wrdi => exact ⟨_, rfl, .latched { s.dev.latches with wel := false, aai := false }⟩
  | resetEnable => exact ⟨_, rfl, .latched { s.dev.latches with rstEn := true }⟩
  | en4b => exact ⟨_, rfl, .latched { s.dev.latches with a4b := true }⟩
  | ex4b => exact ⟨_, rfl, .latched { s.dev.latches with a4b := false }⟩
  | resetMemory =>
    refine ⟨_, rfl, ?_⟩
    split
    · exact .reset
    · exact .latched s.dev.latches

/-- What a command that has a next state did; all of them have one. -/
theorem exec_next {i : Instr} {s t : State} (h : exec i s = .next t) : Completes s i t := by
  obtain ⟨t', ht', hc⟩ := exec_completes i s
  obtain rfl := Host.Outcome.next.inj (h.symm.trans ht')
  exact hc

/-! ### What a command keeps, and what it leaves in the latches -/

/-- The configuration, the part, the waiting events and the dirty page are as they were. -/
structure SameFrame (s t : State) : Prop where
  config : t.config = s.config
  part : t.part = s.part
  inputs : t.inputs = s.inputs
  dirty : t.dev.dirty = s.dev.dirty

/-- An erase returns to `IDLE` and changes no other field of the block than storage (R225). -/
theorem State.eraseAt_dev (s : State) (n len : Nat) (c : EraseCap) :
    (s.eraseAt n len c).dev = { s.dev with seq := .idle, mem := (s.eraseAt n len c).dev.mem } := by
  cases hw : s.dev.wel with
  | true => rw [State.eraseAt_enabled s n len c hw]
  | false => rw [State.eraseAt_blocked s n len c hw]

theorem State.eraseAt_sameFrame (s : State) (n len : Nat) (c : EraseCap) : SameFrame s (s.eraseAt n len c) := by
  cases hw : s.dev.wel with
  | true => rw [State.eraseAt_enabled s n len c hw]; exact ⟨rfl, rfl, rfl, rfl⟩
  | false => rw [State.eraseAt_blocked s n len c hw]; exact ⟨rfl, rfl, rfl, rfl⟩

/-- A command changes nothing of what surrounds the block, and does not move the dirty page. -/
theorem Completes.sameFrame {s t : State} {i : Instr} (h : Completes s i t) : SameFrame s t := by
  cases h with
  | read op a =>
    rw [State.readCommand_eq]
    refine ⟨rfl, rfl, rfl, ?_⟩
    dsimp only
    split <;> rfl
  | erase a len c hcap =>
    rw [State.eraseCommand_eq]
    obtain ⟨hc, hp, hi, hd⟩ := (s.setCur (s.target a * 8)).eraseAt_sameFrame (s.target a) len c
    exact ⟨hc, hp, hi, hd⟩
  | bulkErase hcap => exact s.eraseAt_sameFrame 0 s.part.cap .always
  | _ => exact ⟨rfl, rfl, rfl, rfl⟩

theorem State.readCommand_latches (s : State) (op : Op) (a : Addr) : (s.readCommand op a).dev.latches = s.dev.latches := by
  rw [State.readCommand_eq]
  dsimp only
  split <;> rfl

theorem State.eraseAt_latches (s : State) (n len : Nat) (c : EraseCap) : (s.eraseAt n len c).dev.latches = s.dev.latches := by
  rw [State.eraseAt_dev]
  rfl

theorem State.eraseCommand_latches (s : State) (a : Addr) (len : Nat) (c : EraseCap) :
    (s.eraseCommand a len c).dev.latches = s.dev.latches := by
  rw [State.eraseCommand_eq, State.eraseAt_latches]
  rfl

/-- What a configuration write leaves in the latches and registers (R175). -/
theorem State.configWrite_latches (s : State) (write : State → State) :
    (s.configWrite write).dev.latches = if s.dev.wel then (write s).dev.latches else s.dev.latches := by
  rw [State.configWrite_eq]
  split <;> rfl

theorem exists_exec_latches (i : Instr) (s : State) : ∃ t, exec i s = .next t ∧ t.dev.latches = latchesAfter i s := by
  cases i with
  | read a | fastRead a | dor a | qor a | dior a _ | qior a _ => exact ⟨_, rfl, s.readCommand_latches _ a⟩
  | read4 v | fastRead4 v | dor4 v | qor4 v | dior4 v _ | qior4 v _ => exact ⟨_, rfl, s.readCommand_latches _ (.a4 v)⟩
  | erase4k a | erase32k a | eraseSector a => exact ⟨_, rfl, s.eraseCommand_latches a _ _⟩
  | erase4_4k v | erase4_32k v | erase4Sector v => exact ⟨_, rfl, s.eraseCommand_latches (.a4 v) _ _⟩
  | bulkErase60 | bulkEraseC7 => exact ⟨_, rfl, s.eraseAt_latches 0 s.part.cap .always⟩
  | wnvcr _ | wvcr _ | wevcr _ | extendAddrWrite _ | brwr _ =>
    exact ⟨_, rfl, s.configWrite_latches _⟩
  | aaiWp a => cases a <;> exact ⟨_, rfl, rfl⟩
  | resetMemory =>
    refine ⟨_, rfl, ?_⟩
    dsimp only [latchesAfter]
    split <;> rfl
  | _ => exact ⟨_, rfl, rfl⟩

/-- What each command leaves in the latches and registers is what `latchesAfter` says. -/
theorem exec_latches {i : Instr} {s t : State} (h : exec i s = .next t) : t.dev.latches = latchesAfter i s := by
  obtain ⟨t', ht', hl⟩ := exists_exec_latches i s
  obtain rfl := Host.Outcome.next.inj (h.symm.trans ht')
  exact hl

/-! ### The storage and the outputs of a command (R84, R225, R289) -/

/-- An erase changes storage under write-enable alone, and then its one record carries the whole range. -/
def ErasesOrKeeps (s t : State) : Prop :=
  (t.dev.mem = s.dev.mem ∧ t.out.sinks = s.out.sinks) ∨
    (s.dev.wel = true ∧ ∃ lo hi, t.dev.mem = s.dev.mem.erase lo hi ∧
      t.out.sinks = s.out.sinks ++ [sinkRecord t.dev.mem lo (hi - lo)])

theorem State.eraseAt_erasesOrKeeps (s : State) (n len : Nat) (c : EraseCap) : ErasesOrKeeps s (s.eraseAt n len c) := by
  cases hw : s.dev.wel with
  | true => rw [State.eraseAt_enabled s n len c hw]; exact .inr ⟨hw, _, _, rfl, rfl⟩
  | false => rw [State.eraseAt_blocked s n len c hw]; exact .inl ⟨rfl, rfl⟩

/-- Only an erase changes storage, and only an erase emits a record. -/
theorem Completes.storage {s t : State} {i : Instr} (h : Completes s i t) :
    ErasesOrKeeps s t ∧ (eraseCapOf i.op = none → t.dev.mem = s.dev.mem) := by
  have kept {u : State} (hm : u.dev.mem = s.dev.mem) (hs : u.out.sinks = s.out.sinks) :
      ErasesOrKeeps s u ∧ (eraseCapOf i.op = none → u.dev.mem = s.dev.mem) := ⟨.inl ⟨hm, hs⟩, fun _ => hm⟩
  cases h with
  | read op a =>
    rw [State.readCommand_eq]
    refine kept ?_ rfl
    dsimp only
    split <;> rfl
  | erase a len c hcap =>
    rw [State.eraseCommand_eq]
    exact ⟨(s.setCur (s.target a * 8)).eraseAt_erasesOrKeeps (s.target a) len c, fun hn => by simp [hn] at hcap⟩
  | bulkErase hcap => exact ⟨s.eraseAt_erasesOrKeeps 0 s.part.cap .always, fun hn => by simp [hn] at hcap⟩
  | _ => exact kept rfl rfl

theorem State.eraseAt_warns_length (s : State) (n len : Nat) (c : EraseCap) :
    (s.eraseAt n len c).out.warns.length ≤ s.out.warns.length + 1 := by
  cases hw : s.dev.wel with
  | true =>
    rw [State.eraseAt_enabled s n len c hw]
    cases s.part.advertises c <;> simp
  | false => rw [State.eraseAt_blocked s n len c hw]; simp

/-- A command raises at most one warning (R289). -/
theorem Completes.warns_length {s t : State} {i : Instr} (h : Completes s i t) :
    t.out.warns.length ≤ s.out.warns.length + 1 := by
  cases h with
  | read op a => rw [State.readCommand_eq]; exact Nat.le_succ _
  | erase a len c hcap =>
    rw [State.eraseCommand_eq]
    exact (s.setCur (s.target a * 8)).eraseAt_warns_length (s.target a) len c
  | bulkErase hcap => exact s.eraseAt_warns_length 0 s.part.cap .always
  | _ => exact Nat.le_succ _

/-! ### The sequencer after a command (R42) -/

/-- A command ends in `IDLE`, in a data state, in a wait, or, if it is a register read, in a response. -/
theorem Completes.seq {s t : State} {i : Instr} (h : Completes s i t) :
    t.dev.seq = .idle ∨ t.dev.seq = .read ∨ t.dev.seq = .dummyWait ∨ t.dev.seq = .pageProgram ∨
      (formatOf i.op = .fr ∧ t.dev.seq = .streamingResponse) := by
  cases h with
  | response bytes cyclic hformat hpos hlen => exact .inr (.inr (.inr (.inr ⟨hformat, rfl⟩)))
  | read op a =>
    rw [State.readCommand_eq]
    dsimp only
    split
    · exact .inr (.inl rfl)
    · exact .inr (.inr (.inl rfl))
  | program a aai => exact .inr (.inr (.inr (.inl rfl)))
  | programOn => exact .inr (.inr (.inr (.inl rfl)))
  | erase a len c hcap => rw [State.eraseCommand_eq, State.eraseAt_dev]; exact .inl rfl
  | bulkErase hcap => rw [State.eraseAt_dev]; exact .inl rfl
  | latched l => exact .inl rfl
  | reset => exact .inl rfl

/-- Nothing of a parameter collection, of a response or of a wait is left: what a command starts from. -/
structure Device.Quiet (d : Device) : Prop where
  response : d.rbuf = [] ∧ d.rpos = 0 ∧ d.rcyclic = false
  wait : d.dummyCount = 0 ∧ d.dummyTarget = 0

/-- A command that begins neither a response nor a wait leaves none (R42 (4), (5)). -/
theorem Device.Quiet.wf {c : Config} {d : Device} (h : d.Quiet) (hs : d.seq ≠ .streamingResponse) (hw : d.seq ≠ .dummyWait) :
    d.ResponseWf ∧ d.WaitWf c :=
  ⟨⟨fun he => absurd he hs, fun _ => h.response⟩, fun he => absurd he hw, fun _ => h.wait⟩

theorem Lines.toNat_pos (l : Lines) : 0 < l.toNat := by cases l <;> decide

theorem Lines.toNat_le (l : Lines) : l.toNat ≤ 4 := by cases l <;> decide

/-- The response and the wait that a command leaves are as the invariant asks for (R42 (4), (5)). -/
theorem Completes.response_wait_wf {s t : State} {i : Instr} (h : Completes s i t) (hq : s.dev.Quiet) :
    t.dev.ResponseWf ∧ t.dev.WaitWf s.config := by
  cases h with
  | response bytes cyclic hformat hpos hlen =>
    exact ⟨⟨fun _ => ⟨hpos, hlen⟩, fun hn => absurd rfl hn⟩, ⟨fun he => (by cases he), fun _ => hq.wait⟩⟩
  | read op a =>
    rw [State.readCommand_eq]
    dsimp only
    split
    · exact Device.Quiet.wf ⟨hq.response, hq.wait⟩ (by simp) (by simp)
    · rename_i hn
      have hle := Nat.mul_le_mul (dummyUnits_le s.config op s.dev.vcfg s.part) (Lines.toNat_le s.dev.lines)
      refine ⟨⟨fun he => (by cases he), fun _ => hq.response⟩,
        ⟨fun _ => ⟨Nat.pos_of_ne_zero hn, ?_, ?_⟩, fun he => absurd rfl he⟩⟩
      · exact Nat.le_trans hle (Nat.le_of_eq (Nat.mul_comm _ _))
      · exact Nat.mul_mod_left _ _
  | erase a len c hcap =>
    rw [State.eraseCommand_eq, State.eraseAt_dev]
    exact Device.Quiet.wf ⟨hq.response, hq.wait⟩ (by simp) (by simp)
  | bulkErase hcap =>
    rw [State.eraseAt_dev]
    exact Device.Quiet.wf ⟨hq.response, hq.wait⟩ (by simp) (by simp)
  | latched l => exact Device.Quiet.wf ⟨hq.response, hq.wait⟩ (by simp) (by simp)
  | program a aai =>
    rw [State.programCommand_eq]
    exact Device.Quiet.wf ⟨hq.response, hq.wait⟩ (by simp) (by simp)
  | programOn => exact Device.Quiet.wf ⟨hq.response, hq.wait⟩ (by simp) (by simp)
  | reset =>
    exact Device.Quiet.wf ⟨⟨rfl, rfl, rfl⟩, rfl, rfl⟩ (by simp [State.resetRegisters]) (by simp [State.resetRegisters])

/-- Where a command puts the cursor: at a target inside the storage, at 0, or nowhere new (R42 (2)). -/
theorem Completes.cur_lt {s t : State} {i : Instr} (h : Completes s i t) (hp : s.part.Wf) (hc : s.dev.cur < s.part.capBits) :
    t.dev.cur < s.part.capBits := by
  have target_lt (a : Addr) : s.target a * 8 < s.part.capBits :=
    Nat.mul_lt_mul_of_pos_right (s.target_lt a hp) (by decide)
  cases h with
  | read op a =>
    rw [State.readCommand_eq]
    dsimp only
    split <;> exact target_lt a
  | program a aai => exact target_lt a
  | erase a len c hcap => rw [State.eraseCommand_eq, State.eraseAt_dev]; exact target_lt a
  | bulkErase hcap => rw [State.eraseAt_dev]; exact hc
  | reset => exact Nat.lt_of_le_of_lt (Nat.zero_le _) hc
  | _ => exact hc

/-- A command keeps the canonical form of storage (R40). -/
theorem Completes.storageWf {s t : State} {i : Instr} (h : Completes s i t) (hs : s.dev.StorageWf s.config s.part) :
    t.dev.StorageWf s.config s.part := by
  rcases h.storage.1 with ⟨hm, -⟩ | ⟨-, lo, hi, hm, -⟩
  · rwa [Device.StorageWf, hm]
  · rw [Device.StorageWf, hm]
    exact ⟨Memory.wf_erase s.dev.mem lo hi hs.1, fun x hx => hs.2 x (List.mem_filter.mp hx).1⟩

/-- A command neither begins a parameter collection nor adds to one. -/
theorem Completes.params {s t : State} {i : Instr} (h : Completes s i t) (hp : s.dev.pbuf = [] ∧ s.dev.need = 0) :
    t.dev.pbuf = [] ∧ t.dev.need = 0 := by
  cases h with
  | read op a =>
    rw [State.readCommand_eq]
    dsimp only
    split <;> exact hp
  | erase a len c hcap => rw [State.eraseCommand_eq, State.eraseAt_dev]; exact hp
  | bulkErase hcap => rw [State.eraseAt_dev]; exact hp
  | reset => exact ⟨rfl, rfl⟩
  | _ => exact hp

end Sys2Proof.Machine
end

section
/-! PROOF. The decoder and the collector (40_decode_and_collect.md, R130 to R132). `Transferred` says once what a transfer can do;
the statements about single steps and about whole command frames are read off it. -/

namespace Sys2Proof.Machine

/-! ### Opcodes and their parameters -/

/-- What an opcode and parameter bytes stand for is a command of that opcode. -/
theorem op_of_instrOfParams {op : Op} {x : Nat} {ps : List Byte} {i : Instr} (h : instrOfParams op x ps = some i) : i.op = op := by
  cases op with
  | wrsr | wvcr | wevcr | extendAddrWrite | brwr | read | read4 | fastRead | fastRead4 | dor | dor4 | qor | qor4 | dior | dior4
  | qior | qior4 | pp | pp4 | dpp | qpp | pp4_4 | erase4k | erase4_4k | erase32k | erase4_32k | eraseSector | erase4Sector =>
    obtain ⟨_, -, rfl⟩ := Option.map_eq_some_iff.mp h
    rfl
  | _ => simp only [instrOfParams] at h; split at h <;> cases h <;> rfl

/-- A command without parameters has no parameter bytes (R101). -/
theorem params_eq_nil_of_format {op : Op} {x : Nat} {ps : List Byte} {i : Instr} (h : instrOfParams op x ps = some i)
    (hf : formatOf op = .f0 ∨ formatOf op = .fr) : ps = [] := by
  cases op with
  | wren | wrdi | resetEnable | resetMemory | en4b | ex4b | rdsr | readFsr | brrd | extendAddrRead | jedecRead | rdid90 | rnvcr
  | rvcr | revcr | bulkEraseC7 | bulkErase60 =>
    simp only [instrOfParams] at h
    split at h
    · assumption
    · cases h
  | _ => simp [formatOf] at hf

/-- An address has at least three bytes (R102). -/
theorem three_le_addrLen (m : DecodeMode) (op : Op) : 3 ≤ addrLen m op := by
  unfold addrLen
  repeat' split
  all_goals omega

/-- Without parameter bytes the number of mode/dummy bytes does not matter. -/
theorem instrOfParams_nil (op : Op) (x : Nat) : instrOfParams op x [] = instrOfParams op 0 [] := by
  unfold instrOfParams
  simp only [List.take_nil, List.drop_nil]

/-- Only one command has the opcode of RESET_MEMORY (R153). -/
theorem op_eq_resetMemory_iff {i : Instr} : i.op = .resetMemory ↔ i = .resetMemory := by
  cases i <;> simp [Instr.op]

/-- The hints of R109, by the lists of the rule. -/
theorem hintOf_eq (op : Op) :
    hintOf op =
      if op ∈ [Op.dor, .dor4, .dior, .dior4, .dpp] then .two
      else if op ∈ [Op.qor, .qor4, .qior, .qior4, .qpp, .pp4_4] then .four else .one := by
  cases op <;> rfl

/-! ### What a transfer can do -/

/-- What a transfer of the unit `tx` of width `w` can make of the state `s`: one case for each way through the decoder, the
collector and the engine (R130). -/
inductive Transferred (s : State) (tx w : Nat) : State → Prop
  /-- An unrecognized opcode (R106). -/
  | unknown (hseq : s.dev.seq = .idle) (hop : opOfByte s.config (BitVec.ofNat 8 tx) = none) :
      Transferred s tx w ((s.clearResetEnable (BitVec.ofNat 8 tx)).raise (.unknownOpcode (BitVec.ofNat 8 tx)))
  /-- An opcode without parameters: its command runs (R131). -/
  | ran {i : Instr} {t : State} (hseq : s.dev.seq = .idle) (hop : opOfByte s.config (BitVec.ofNat 8 tx) = some i.op)
      (hneed : needOf s.mode i.op = 0) (hparams : instrOfParams i.op 0 [] = some i)
      (hrun : exec i (s.acceptOpcode (BitVec.ofNat 8 tx) i.op) = .next t) : Transferred s tx w t
  /-- An opcode with parameters: their collection begins (R131). -/
  | began {op : Op} (hseq : s.dev.seq = .idle) (hop : opOfByte s.config (BitVec.ofNat 8 tx) = some op)
      (hneed : needOf s.mode op ≠ 0) :
      Transferred s tx w ((s.acceptOpcode (BitVec.ofNat 8 tx) op).startCollect (needOf s.mode op))
  /-- A parameter byte that is not the last (R132). -/
  | collected (hseq : s.dev.seq = .collectingParams) (hlen : s.dev.pbuf.length + 1 ≠ s.dev.need) :
      Transferred s tx w (s.pushParam (BitVec.ofNat 8 tx))
  /-- The last parameter byte: the command runs (R132). -/
  | completed {i : Instr} {u : State} (hseq : s.dev.seq = .collectingParams) (hw : w = 8)
      (hlen : s.dev.pbuf.length + 1 = s.dev.need) (hop : opOfByte s.config s.dev.cmd = some i.op)
      (hparams : instrOfParams i.op (extraLen s.config s.part.variant i.op) (s.dev.pbuf ++ [BitVec.ofNat 8 tx]) = some i)
      (hrun : exec i (s.pushParam (BitVec.ofNat 8 tx)) = .next u) : Transferred s tx w u.clearParams
  /-- A byte of a response (R247). -/
  | streamed {v : Byte} (hseq : s.dev.seq = .streamingResponse) (hv : s.dev.rbuf[s.dev.rpos]? = some v) :
      Transferred s tx w ((s.setRx v).setDev s.dev.afterStream)
  /-- A unit programmed (R245). -/
  | programmed {t : State} (hseq : s.dev.seq = .pageProgram) (halign : s.dev.cur % w = 0)
      (hrun : programUnit (BitVec.ofNat 8 tx) w s = .next t) : Transferred s tx w t
  /-- A unit read (R246). -/
  | read {t : State} (hseq : s.dev.seq = .read) (halign : s.dev.cur % w = 0) (hrun : readUnit w s = .next t) :
      Transferred s tx w t
  /-- A unit of a dummy wait (R248). -/
  | waited {t : State} (hseq : s.dev.seq = .dummyWait) (hrun : dummyUnit s = .next t) : Transferred s tx w t

/-- A transfer that has a next state did one of these. -/
theorem transferred {tx w : Nat} {s t : State} (h : transfer tx w s = .next t) : Transferred s tx w t := by
  obtain ⟨-, hcases⟩ := transfer_next h
  rcases hcases with ⟨hseq, -, h⟩ | ⟨hseq, hw, h⟩ | ⟨hseq, -, h⟩ | ⟨hseq, halign, h⟩ | ⟨hseq, halign, h⟩ |
    ⟨hseq, h⟩
  · rcases decodeOpcode_next h with ⟨hop, rfl⟩ | ⟨op, i, hop, hneed, hi, hrun⟩ | ⟨op, hop, hneed, rfl⟩
    · exact .unknown hseq hop
    · obtain rfl := op_of_instrOfParams hi
      exact .ran hseq hop hneed hi hrun
    · exact .began hseq hop hneed
  · rcases collect_next h with ⟨hlen, i, u, hflight, hrun, rfl⟩ | ⟨hlen, rfl⟩
    · obtain ⟨op, hop, hi⟩ := Option.bind_eq_some_iff.mp hflight
      obtain rfl := op_of_instrOfParams hi
      exact .completed hseq hw (by simpa using hlen) hop hi hrun
    · exact .collected hseq (by simpa using hlen)
  · obtain ⟨v, hv, rfl⟩ := streamUnit_next h
    exact .streamed hseq hv
  · exact .programmed hseq halign h
  · exact .read hseq halign h
  · exact .waited hseq h

/-- The response cursor, the response and the sequencer are all that a byte of a response changes (R247). -/
theorem afterStream_eq (d : Device) :
    d.afterStream = { d with seq := d.afterStream.seq, rpos := d.afterStream.rpos, rbuf := d.afterStream.rbuf } := by
  unfold Device.afterStream
  repeat' split
  all_goals rfl

/-- The lines and the wait are all that a change of the bus width changes (R250). -/
theorem withLines_eq (r : Rounding) (d : Device) (new : Lines) :
    d.withLines r new = { d with
      lines := new, dummyCount := (d.withLines r new).dummyCount, dummyTarget := (d.withLines r new).dummyTarget } := by
  unfold Device.withLines
  split <;> rfl

/-! ### Single steps of the decoder (R131) -/

/-- What the decoder itself writes (R131). -/
theorem State.acceptOpcode_eq (s : State) (b : Byte) (op : Op) (h : opOfByte s.config b = some op) :
    s.acceptOpcode b op = { s with dev := { s.dev with
      cmd := b, widthHint := hintOf op, rstEn := if op = .resetMemory then s.dev.rstEn else false } } := by
  by_cases hop : op = .resetMemory <;>
    simp [State.acceptOpcode, State.clearResetEnable, h, hop, State.beginCommand, State.setRstEn]

/-- In `IDLE` a byte goes to the decoder (R130). -/
theorem step_idle {s : State} {tx : Nat} {rest : List Event} (hseq : s.dev.seq = .idle)
    (hin : s.Waiting (.transfer tx 8) rest) (htx : tx < 256) : step s = decodeOpcode (BitVec.ofNat 8 tx) (s.accept rest) := by
  rw [step_waiting hin]
  simp [handle, transfer, hseq, ValidUnit, htx]

/-- While parameters are collected a byte goes to the collector (R130). -/
theorem step_collecting {s : State} {tx : Nat} {rest : List Event} (hseq : s.dev.seq = .collectingParams)
    (hin : s.Waiting (.transfer tx 8) rest) (htx : tx < 256) : step s = collect (BitVec.ofNat 8 tx) (s.accept rest) := by
  rw [step_waiting hin]
  simp [handle, transfer, hseq, ValidUnit, htx]

theorem step_idle_byte {s : State} {b : Byte} {rest : List Event} (hseq : s.dev.seq = .idle)
    (hin : s.Waiting (.transfer b.toNat 8) rest) : step s = decodeOpcode b (s.accept rest) := by
  rw [step_idle hseq hin b.isLt, BitVec.ofNat_toNat, BitVec.setWidth_eq]

theorem step_collecting_byte {s : State} {b : Byte} {rest : List Event} (hseq : s.dev.seq = .collectingParams)
    (hin : s.Waiting (.transfer b.toNat 8) rest) : step s = collect b (s.accept rest) := by
  rw [step_collecting hseq hin b.isLt, BitVec.ofNat_toNat, BitVec.setWidth_eq]

theorem decodeOpcode_unknown {b : Byte} {s : State} (h : opOfByte s.config b = none) :
    decodeOpcode b s = .next ((s.setRstEn false).raise (.unknownOpcode b)) := by
  simp [decodeOpcode, State.clearResetEnable, h]

theorem decodeOpcode_run {b : Byte} {s : State} {i : Instr} (h : opOfByte s.config b = some i.op) (hf : i.formed s.mode = true)
    (hp : i.params = []) : decodeOpcode b s = exec i (s.acceptOpcode b i.op) := by
  have hneed : needOf s.mode i.op = 0 := by rw [← Instr.params_length hf, hp]; rfl
  have hi : instrOfParams i.op 0 [] = some i := by rw [← instrOfParams_nil, ← hp]; exact instrOfParams_params hf
  simp [decodeOpcode, h, hneed, hi]

theorem decodeOpcode_begin {b : Byte} {s : State} {op : Op} (h : opOfByte s.config b = some op) (hneed : needOf s.mode op ≠ 0) :
    decodeOpcode b s = .next ((s.acceptOpcode b op).startCollect (needOf s.mode op)) := by
  simp [decodeOpcode, h, hneed]

/-- Settles O7: a whole command of one byte has no parameters, so the decoder runs it. -/
theorem stepRunsTheOpcode : Obligations.StepRunsTheOpcode := by
  intro s tx rest i hseq hin htx hdec
  obtain ⟨b, hop, hf, hbs⟩ := decode_eq_ok_iff.mp hdec
  obtain ⟨rfl, hparams⟩ := List.cons.inj hbs
  rw [List.append_nil] at hparams
  rw [step_idle hseq hin htx, decodeOpcode_run (s := s.accept rest) hop hf hparams.symm,
    State.acceptOpcode_eq (s.accept rest) _ _ hop]
  simp only [op_eq_resetMemory_iff, hintOf_eq]
  rfl

/-- The number of parameter bytes of R103, by the lists of the rule. -/
theorem needOf_eq (m : DecodeMode) (op : Op) :
    needOf m op =
      if op ∈ [Op.wren, .wrdi, .resetEnable, .resetMemory, .en4b, .ex4b, .bulkEraseC7, .bulkErase60, .rdsr, .readFsr, .brrd,
        .extendAddrRead, .jedecRead, .rdid90, .rnvcr, .rvcr, .revcr] then 0
      else if op ∈ [Op.wrsr, .wvcr, .wevcr, .extendAddrWrite, .brwr] then 1
      else if op = .wnvcr then 2
      else if op = .aaiWp then (if m.aai then 0 else 3)
      else if op ∈ [Op.dior, .dior4] then addrLen m op + m.config.dioExtra.get m.variant
      else if op ∈ [Op.qior, .qior4] then addrLen m op + m.config.qioExtra.get m.variant
      else addrLen m op := by
  cases op <;> rfl

/-- The address length of R102, by the list of the rule. -/
theorem addrLen_eq {m : DecodeMode} {op : Op} (h : op ≠ .aaiWp) :
    addrLen m op =
      if op ∈ [Op.read4, .fastRead4, .dor4, .qor4, .dior4, .qior4, .pp4, .pp4_4, .erase4_4k, .erase4_32k, .erase4Sector] ∨
        m.a4b = true then 4 else 3 := by
  cases op with
  | aaiWp => exact absurd rfl h
  | _ => simp [addrLen, fourByteOp]

/-- Settles O8. -/
theorem stepBeginsToCollect : Obligations.StepBeginsToCollect := by
  intro s tx op rest hseq hin htx hop address need hneed
  have hneedOf : needOf s.mode op = need := by
    rw [needOf_eq]
    by_cases ha : op = .aaiWp
    · subst ha; rfl
    · simp only [addrLen_eq ha]; rfl
  have hop' : op ≠ .resetMemory := by rintro rfl; exact hneed rfl
  rw [step_idle hseq hin htx, decodeOpcode_begin (s := s.accept rest) hop (hneedOf ▸ hneed),
    State.acceptOpcode_eq (s.accept rest) _ _ hop]
  simp only [if_neg hop', hintOf_eq]
  show _ = Host.Outcome.next _
  rw [← hneedOf]
  rfl

/-- Settles O10. -/
theorem unrecognizedOpcodeOnlyWarns : Obligations.UnrecognizedOpcodeOnlyWarns := by
  intro s tx rest hseq hin htx hmap
  rw [step_idle hseq hin htx, decodeOpcode_unknown (s := s.accept rest) (opOfByte_eq_none hmap)]
  rfl

/-! ### Single steps of the collector (R132) -/

/-- The last parameter byte runs the command that the opcode and the bytes encode. -/
theorem collect_last {b : Byte} {s : State} {i : Instr} (hop : opOfByte s.config s.dev.cmd = some i.op)
    (hf : i.formed s.mode = true) (hp : s.dev.pbuf ++ [b] = i.params) (hneed : s.dev.need = i.params.length) :
    collect b s = andThen (exec i (s.pushParam b)) State.clearParams := by
  have hlen : (s.pushParam b).dev.pbuf.length = (s.pushParam b).dev.need := by simp [hneed, ← hp]
  have hflight : (s.pushParam b).commandInFlight = some i := by
    simp only [State.commandInFlight, State.pushParam_config, State.pushParam_dev, State.pushParam_part, hop, hp]
    exact instrOfParams_params hf
  rw [collect, runIfComplete, if_pos hlen, hflight]

theorem collect_more {b : Byte} {s : State} (h : s.dev.pbuf.length + 1 ≠ s.dev.need) :
    collect b s = .next (s.pushParam b) := by
  simp [collect, runIfComplete, h]

/-- While parameters are collected, `S.cmd` holds an opcode and `S.need` the number that the decoder computed for it (R42). -/
theorem State.Inv.collecting {s : State} (h : s.Inv) (hseq : s.dev.seq = .collectingParams) :
    s.dev.pbuf.length < s.dev.need ∧ ∃ op, opOfByte s.config s.dev.cmd = some op ∧ needOf s.mode op = s.dev.need := by
  obtain ⟨-, -, ⟨hcollect, -⟩, -⟩ := h
  obtain ⟨hlt, hagree⟩ := hcollect hseq
  exact ⟨hlt, Option.map_eq_some_iff.mp hagree⟩

/-- Outside the collector the parameter buffer is empty (R42). -/
theorem State.Inv.not_collecting {s : State} (h : s.Inv) (hseq : s.dev.seq ≠ .collectingParams) :
    s.dev.pbuf = [] ∧ s.dev.need = 0 := by
  obtain ⟨-, -, ⟨-, hidle⟩, -⟩ := h
  exact hidle hseq

/-- Settles O9: the invariant says that the collected bytes have the number that the opcode asks for, so they are a command, and
a command with parameters is no register read. -/
theorem stepCollectsAndRunsTheCommand : Obligations.StepCollectsAndRunsTheCommand := by
  intro s tx rest hinv hseq hin htx s₁
  obtain ⟨hlt, op, hop, hneed⟩ := hinv.collecting hseq
  rw [step_collecting hseq hin htx]
  split
  · rename_i hlen
    obtain ⟨i, -, rfl, hparams, hf⟩ := HasCommand.of_length (m := s.mode) (op := op) (ps := s₁.dev.pbuf)
      (by simp [s₁, hneed, hlen])
    obtain ⟨t, ht, hc⟩ := exec_completes i s₁
    refine ⟨i, t, decode_eq_ok_iff.mpr ⟨_, hop, hf, by rw [hparams, List.append_nil]⟩, ht, ?_, ?_⟩
    · rw [collect_last (s := s.accept rest) hop hf hparams.symm (by rw [Instr.params_length hf, hneed]; rfl)]
      exact congrArg (andThen · State.clearParams) ht
    · rcases hc.seq with h | h | h | h | ⟨hfr, -⟩
      · exact .inl h
      · exact .inr (.inl h)
      · exact .inr (.inr (.inl h))
      · exact .inr (.inr (.inr h))
      · have hzero : needOf s.mode i.op = 0 := by simp [needOf, hfr]
        omega
  · rename_i hlen
    exact collect_more (s := s.accept rest) hlen

/-! ### A whole frame -/

theorem run_one (s : State) : Host.Core.run Sys2Proof.core 1 s = step s := by
  have key : ∀ (M : Host.Core) (u : M.State), M.run 1 u = M.step u := by
    intro M u
    simp only [Host.Core.run]
    cases M.step u <;> rfl
  exact key Sys2Proof.core s

/-- The collector's own fields and the sequencer replaced. -/
def State.withCollector (s : State) (q : Seq) (ps : List Byte) (n : Nat) : State :=
  { s with dev := { s.dev with seq := q, pbuf := ps, need := n } }

section
variable (s : State) (q : Seq) (ps : List Byte) (n : Nat)

theorem State.readCommand_withCollector (op : Op) (a : Addr) :
    ((s.withCollector q ps n).readCommand op a).clearParams = (s.readCommand op a).clearParams := by
  unfold State.readCommand State.enterRead State.enterReadAfter
  show State.clearParams (if 0 < s.config.dummyUnits op s.dev.vcfg s.part then _ else _) =
    State.clearParams (if 0 < s.config.dummyUnits op s.dev.vcfg s.part then _ else _)
  split <;> rfl

theorem State.eraseAt_withCollector (k len : Nat) (c : EraseCap) :
    ((s.withCollector q ps n).eraseAt k len c).clearParams = (s.eraseAt k len c).clearParams := by
  cases hw : s.dev.wel with
  | true => rw [State.eraseAt_enabled s k len c hw, State.eraseAt_enabled (s.withCollector q ps n) k len c hw]; rfl
  | false => rw [State.eraseAt_blocked s k len c hw, State.eraseAt_blocked (s.withCollector q ps n) k len c hw]; rfl

theorem State.eraseCommand_withCollector (a : Addr) (len : Nat) (c : EraseCap) :
    ((s.withCollector q ps n).eraseCommand a len c).clearParams = (s.eraseCommand a len c).clearParams := by
  rw [State.eraseCommand_eq, State.eraseCommand_eq]
  exact (s.setCur (s.target a * 8)).eraseAt_withCollector q ps n (s.target a) len c

theorem State.configWrite_withCollector {write : State → State}
    (hw : write (s.withCollector q ps n) = (write s).withCollector q ps n) :
    ((s.withCollector q ps n).configWrite write).clearParams = (s.configWrite write).clearParams := by
  rw [State.configWrite_eq, State.configWrite_eq, hw]
  show State.clearParams (State.setSeq (if s.dev.wel then _ else _) _) =
    State.clearParams (State.setSeq (if s.dev.wel then _ else _) _)
  split <;> rfl

/-- No command reads the collector's own fields, and every command writes the sequencer: once the buffer is cleared it does not
matter what they were. -/
theorem exec_withCollector (i : Instr) :
    andThen (exec i (s.withCollector q ps n)) State.clearParams = andThen (exec i s) State.clearParams := by
  cases i with
  | read a | fastRead a | dor a | qor a | dior a _ | qior a _ => exact congrArg _ (s.readCommand_withCollector q ps n _ a)
  | read4 v | fastRead4 v | dor4 v | qor4 v | dior4 v _ | qior4 v _ =>
    exact congrArg _ (s.readCommand_withCollector q ps n _ (.a4 v))
  | erase4k a | erase32k a | eraseSector a => exact congrArg _ (s.eraseCommand_withCollector q ps n a _ _)
  | erase4_4k v | erase4_32k v | erase4Sector v => exact congrArg _ (s.eraseCommand_withCollector q ps n (.a4 v) _ _)
  | bulkErase60 | bulkEraseC7 => exact congrArg _ (s.eraseAt_withCollector q ps n 0 s.part.cap .always)
  | wnvcr _ | wvcr _ | wevcr _ | extendAddrWrite _ | brwr _ => exact congrArg _ (s.configWrite_withCollector q ps n rfl)
  | aaiWp a => cases a <;> rfl
  | resetMemory =>
    show Host.Outcome.next (State.clearParams (if s.dev.rstEn then _ else _)) =
      .next (State.clearParams (if s.dev.rstEn then _ else _))
    split <;> rfl
  | _ => rfl

end

/-- Where nothing is collected there is nothing to clear. -/
theorem State.clearParams_eq_self {s : State} (h : s.dev.pbuf = [] ∧ s.dev.need = 0) : s.clearParams = s := by
  obtain ⟨c, p, d, inputs, out⟩ := s
  obtain ⟨hpbuf, hneed⟩ := h
  cases d
  simp_all [State.clearParams]

/-- The bytes of a collection, one transfer each, end in the command that they encode. -/
theorem run_collect {i : Instr} (p : Byte) (ps : List Byte) (rest : List Event) (s : State)
    (hseq : s.dev.seq = .collectingParams) (hop : opOfByte s.config s.dev.cmd = some i.op) (hf : i.formed s.mode = true)
    (hp : s.dev.pbuf ++ p :: ps = i.params) (hneed : s.dev.need = i.params.length)
    (hin : s.inputs = (p :: ps).map (fun x => Event.transfer x.toNat 8) ++ rest) :
    Host.Core.run Sys2Proof.core (ps.length + 1) s =
      andThen (exec i { s with inputs := rest, out := Output.empty, dev := { s.dev with pbuf := i.params } })
        State.clearParams := by
  induction ps generalizing p s with
  | nil =>
    have hlast : collect p (s.accept rest) = andThen (exec i ((s.accept rest).pushParam p)) State.clearParams :=
      collect_last hop hf hp hneed
    rw [State.pushParam, State.accept_dev, hp] at hlast
    exact (run_one s).trans ((step_collecting_byte hseq hin).trans hlast)
  | cons q ps ih =>
    have hmore : s.dev.pbuf.length + 1 ≠ s.dev.need := by rw [hneed, ← hp]; simp
    have hstep := (step_collecting_byte hseq hin).trans (collect_more (s := s.accept _) hmore)
    exact (run_next _ hstep).trans (ih q _ hseq hop hf (by rw [← hp]; simp) hneed rfl)

/-- The state in which the decoder runs the command `i` with the opcode byte `b` (R131). -/
def State.decoded (s : State) (rest : List Event) (b : Byte) (i : Instr) : State :=
  { s with
    inputs := rest, out := Output.empty
    dev := { s.dev with cmd := b, widthHint := hintOf i.op, rstEn := if i = .resetMemory then s.dev.rstEn else false } }

/-- Settles O11: the decoder runs a command without parameters at once; any other is collected and then run, and it does not
matter to the command that it was collected. -/
theorem commandBytesRunTheCommand : Obligations.CommandBytesRunTheCommand := by
  intro s i b rest hinv hseq hwf hbyte hin
  obtain ⟨-, hf⟩ := Bool.and_eq_true_iff.mp hwf
  have hop : opOfByte s.config b = some i.op := (opOfByte_iff_byteOfOp hinv.1).mpr hbyte
  rw [encode_eq hbyte] at hin ⊢
  cases hp : i.params with
  | nil =>
    rw [hp] at hin
    have hrun := (step_idle_byte hseq hin).trans (decodeOpcode_run (s := s.accept rest) hop hf hp)
    rw [State.acceptOpcode_eq (s.accept rest) _ _ hop] at hrun
    simp only [op_eq_resetMemory_iff] at hrun
    refine (run_one s).trans (hrun.trans ?_)
    show exec i (s.decoded rest b i) = andThen (exec i (s.decoded rest b i)) State.clearParams
    obtain ⟨t, ht, hc⟩ := exec_completes i (s.decoded rest b i)
    rw [ht, andThen_next, State.clearParams_eq_self (hc.params (hinv.not_collecting (by simp [hseq])))]
  | cons p ps =>
    rw [hp] at hin
    have hneed : needOf s.mode i.op = i.params.length := (Instr.params_length hf).symm
    have hpos : needOf s.mode i.op ≠ 0 := by rw [hneed, hp]; simp
    have hbegin := (step_idle_byte hseq hin).trans (decodeOpcode_begin (s := s.accept _) hop hpos)
    rw [State.acceptOpcode_eq (s.accept _) _ _ hop] at hbegin
    simp only [op_eq_resetMemory_iff] at hbegin
    refine (run_next _ hbegin).trans ?_
    refine (run_collect p ps rest _ rfl (by exact hop) (by exact hf) (by exact hp.symm) hneed rfl).trans ?_
    exact exec_withCollector (s.decoded rest b i) .collectingParams i.params (needOf s.mode i.op) i

end Sys2Proof.Machine
end

section
/-! PROOF. The machine as a whole (10_state.md, R42; 60_exceptions.md, R289, R290; 93_implementation_defined.md): every step keeps
the invariant, every event of the domain completes, and every other one is refused. The invariant is proved one kind of event at a
time; a transfer goes by the cases of `Transferred`, and a command by those of `Completes`. -/

namespace Sys2Proof.Machine

/-! ### What surrounds the block -/

theorem State.clearResetEnable_of_unknown {s : State} {b : Byte} (h : opOfByte s.config b = none) :
    s.clearResetEnable b = s.setRstEn false := by
  simp [State.clearResetEnable, h]

/-- A transfer keeps the configuration, the part and the waiting events. -/
theorem Transferred.surroundings {s t : State} {tx w : Nat} (h : Transferred s tx w t) :
    t.config = s.config ∧ t.part = s.part ∧ t.inputs = s.inputs := by
  cases h with
  | unknown hseq hop => rw [State.clearResetEnable_of_unknown hop]; exact ⟨rfl, rfl, rfl⟩
  | ran hseq hop hneed hparams hrun =>
    obtain ⟨hc, hp, hi, -⟩ := (exec_next hrun).sameFrame
    exact ⟨by simpa using hc, by simpa using hp, by simpa using hi⟩
  | began hseq hop hneed => simp
  | completed hseq hw hlen hop hparams hrun =>
    obtain ⟨hc, hp, hi, -⟩ := (exec_next hrun).sameFrame
    exact ⟨hc, hp, hi⟩
  | programmed hseq halign hrun =>
    obtain ⟨-, hc, hp, hi, -⟩ := programUnit_next hrun
    exact ⟨hc, hp, hi⟩
  | read hseq halign hrun => obtain ⟨-, rfl⟩ := readUnit_next hrun; exact ⟨rfl, rfl, rfl⟩
  | waited hseq hrun => rw [dummyUnit_eq] at hrun; cases hrun; exact ⟨rfl, rfl, rfl⟩
  | _ => exact ⟨rfl, rfl, rfl⟩

/-- An event keeps the configuration and the events behind it, and only a power-on brings another part. -/
theorem handle_surroundings {e : Event} {s t : State} (h : handle e s = .next t) :
    t.config = s.config ∧ t.inputs = s.inputs ∧ (t.part = s.part ∨ ∃ seed, e = .powerOn t.part seed) := by
  cases e with
  | powerOn p seed => obtain ⟨-, rfl⟩ := powerOn_next h; exact ⟨rfl, rfl, .inr ⟨seed, rfl⟩⟩
  | select asserted => rw [handle, select_eq] at h; cases h; exact ⟨rfl, rfl, .inl rfl⟩
  | setBusWidth l => obtain ⟨new, -, rfl⟩ := setBusWidth_next h; exact ⟨rfl, rfl, .inl rfl⟩
  | transfer tx w =>
    obtain ⟨hc, hp, hi⟩ := (transferred h).surroundings
    exact ⟨hc, hi, .inl hp⟩
  | snapshot => rw [handle, snapshot_eq] at h; cases h; exact ⟨rfl, rfl, .inl rfl⟩
  | restore b => obtain ⟨-, rfl⟩ := restore_next h; exact ⟨rfl, rfl, .inl rfl⟩

/-- Settles O13. -/
theorem stepKeepsTheConfiguration : Obligations.StepKeepsTheConfiguration := by
  intro s t h
  rcases step_next h with ⟨hin, rfl⟩ | ⟨e, rest, hin, hrun⟩
  · exact ⟨rfl, by rw [hin]; rfl, .inl rfl⟩
  · obtain ⟨hc, hi, hp⟩ := handle_surroundings hrun
    refine ⟨hc, by rw [hin]; exact hi, hp.imp id ?_⟩
    rintro ⟨seed, rfl⟩
    exact ⟨seed, rest, hin⟩

/-! ### Warnings (R289) -/

theorem programUnit_warns_length {b : Byte} {w : Nat} {s t : State} (h : programUnit b w s = .next t) :
    t.out.warns.length ≤ s.out.warns.length + 1 := by
  obtain ⟨-, -, -, -, -, hout⟩ := programUnit_next h
  rw [hout, List.length_append]
  refine Nat.add_le_add_left ?_ _
  repeat' split
  all_goals simp

/-- A transfer raises at most one warning. -/
theorem Transferred.warns_length {s t : State} {tx w : Nat} (h : Transferred s tx w t) :
    t.out.warns.length ≤ s.out.warns.length + 1 := by
  cases h with
  | unknown hseq hop => simp [State.clearResetEnable_of_unknown hop]
  | ran hseq hop hneed hparams hrun => simpa using (exec_next hrun).warns_length
  | began hseq hop hneed => simp
  | completed hseq hw hlen hop hparams hrun => exact (exec_next hrun).warns_length
  | programmed hseq halign hrun => exact programUnit_warns_length hrun
  | read hseq halign hrun => obtain ⟨-, rfl⟩ := readUnit_next hrun; exact Nat.le_succ _
  | waited hseq hrun => rw [dummyUnit_eq] at hrun; cases hrun; exact Nat.le_succ _
  | _ => exact Nat.le_succ _

/-- Settles O18: the outputs of a step start empty, a transfer adds at most one warning, and no other event adds one. -/
theorem atMostOneWarningPerEvent : Obligations.AtMostOneWarningPerEvent := by
  intro s t h
  rcases step_next h with ⟨-, rfl⟩ | ⟨e, rest, -, hrun⟩
  · exact Nat.zero_le 1
  · cases e with
    | powerOn p seed => obtain ⟨-, rfl⟩ := powerOn_next hrun; exact Nat.zero_le 1
    | select asserted => rw [handle, select_eq] at hrun; cases hrun; exact Nat.zero_le 1
    | setBusWidth l => obtain ⟨new, -, rfl⟩ := setBusWidth_next hrun; exact Nat.zero_le 1
    | transfer tx w => exact (transferred hrun).warns_length
    | snapshot => rw [handle, snapshot_eq] at hrun; cases hrun; exact Nat.zero_le 1
    | restore b => obtain ⟨-, rfl⟩ := restore_next hrun; exact Nat.zero_le 1

/-! ### The invariant (R42) -/

/-- R42 without its clause on the collector. -/
abbrev Device.EngineWf (c : Config) (p : Part) (d : Device) : Prop :=
  d.ResponseWf ∧ d.WaitWf c ∧ d.cur < p.capBits ∧ d.StorageWf c p ∧ d.DirtyWf p

/-- Outside a response and a wait nothing is left of one. -/
theorem Device.quiet_of_engineWf {c : Config} {p : Part} {d : Device} (h : d.EngineWf c p) (hs : d.seq ≠ .streamingResponse)
    (hw : d.seq ≠ .dummyWait) : d.Quiet := by
  obtain ⟨⟨-, hresponse⟩, ⟨-, hwait⟩, -⟩ := h
  exact ⟨hresponse hs, hwait hw⟩

/-- Outside the collector, with nothing collected, the collector's clause holds (R42 (3)). -/
theorem Device.collectorWf_of_empty {c : Config} {v : Variant} {d : Device} (hs : d.seq ≠ .collectingParams)
    (hp : d.pbuf = [] ∧ d.need = 0) : d.CollectorWf c v :=
  ⟨fun h => absurd h hs, fun _ => hp⟩

theorem Completes.seq_ne_collecting {s t : State} {i : Instr} (h : Completes s i t) : t.dev.seq ≠ .collectingParams := by
  rcases h.seq with h | h | h | h | ⟨-, h⟩ <;> simp [h]

/-- A command keeps the invariant. -/
theorem Completes.engineWf {s t : State} {i : Instr} (h : Completes s i t) (hp : s.part.Wf) (hq : s.dev.Quiet)
    (hw : s.dev.EngineWf s.config s.part) : t.dev.EngineWf s.config s.part := by
  obtain ⟨hresponse, hwait⟩ := h.response_wait_wf hq
  obtain ⟨-, -, hcur, hstorage, hdirty⟩ := hw
  refine ⟨hresponse, hwait, h.cur_lt hp hcur, h.storageWf hstorage, ?_⟩
  rwa [Device.DirtyWf, h.sameFrame.dirty]

/-- The page of a byte of the storage is a page of the storage (R41). -/
theorem page_lt_npages {p : Part} (hp : p.Wf) {a : Nat} (ha : a < p.cap) : a / p.pageSize < p.npages := by
  obtain ⟨-, -, -, -, hmod, -⟩ := hp
  exact Nat.div_lt_div_of_lt_of_dvd (Nat.dvd_of_mod_eq_zero hmod) ha

/-- The storage that a program unit leaves is canonical and inside the capacity (R40). -/
theorem programUnit_storageWf {b : Byte} {w : Nat} {s t : State} (h : programUnit b w s = .next t)
    (hs : s.dev.StorageWf s.config s.part) : t.dev.StorageWf s.config s.part := by
  obtain ⟨hcap, -, -, -, hdev, -⟩ := programUnit_next h
  obtain ⟨hmem, hlt⟩ := hs
  simp only [hdev, Device.StorageWf]
  split
  · refine ⟨Memory.wf_write _ _ _ hmem, fun x hx => ?_⟩
    rcases Memory.mem_write hx with hx | rfl
    · exact hlt x hx
    · exact hcap
  · exact ⟨hmem, hlt⟩

/-- The page that a program unit marks is a page of the storage (R41). -/
theorem programUnit_dirtyWf {b : Byte} {w : Nat} {s t : State} (h : programUnit b w s = .next t) (hp : s.part.Wf)
    (hs : s.dev.DirtyWf s.part) : t.dev.DirtyWf s.part := by
  obtain ⟨hcap, -, -, -, hdev, -⟩ := programUnit_next h
  simp only [hdev, Device.DirtyWf]
  split
  · intro q hq
    obtain rfl := Option.some.inj hq
    exact page_lt_npages hp hcap
  · exact hs

theorem programUnit_wf {b : Byte} {w : Nat} {s t : State} (h : programUnit b w s = .next t) (hp : s.part.Wf)
    (hs : s.dev.seq = .pageProgram) (hw : s.dev.Wf s.config s.part) : t.dev.Wf s.config s.part := by
  obtain ⟨⟨-, hempty⟩, hengine⟩ := hw
  have hq := Device.quiet_of_engineWf hengine (by simp [hs]) (by simp [hs])
  obtain ⟨-, -, -, hstorage, hdirty⟩ := hengine
  obtain ⟨-, -, -, -, hdev, -⟩ := programUnit_next h
  have hseq : t.dev.seq = .pageProgram := by rw [hdev]; exact hs
  have hq' : t.dev.Quiet := by rw [hdev]; exact ⟨hq.response, hq.wait⟩
  obtain ⟨hresponse, hwait⟩ := hq'.wf (c := s.config) (by simp [hseq]) (by simp [hseq])
  refine ⟨Device.collectorWf_of_empty (by simp [hseq]) ?_, hresponse, hwait, ?_, programUnit_storageWf h hstorage,
    programUnit_dirtyWf h hp hdirty⟩
  · rw [hdev]; exact hempty (by simp [hs])
  · rw [hdev]; exact advance_lt s.part s.dev.cur w hp

/-- One more byte of a response leaves a response that goes on, or none (R247). -/
theorem afterStream_wf {c : Config} {p : Part} {d : Device} (hs : d.seq = .streamingResponse) (hw : d.Wf c p) :
    d.afterStream.Wf c p := by
  obtain ⟨⟨-, hempty⟩, ⟨hresponse, -⟩, ⟨-, hwait⟩, hrest⟩ := hw
  obtain ⟨hpos, hlen⟩ := hresponse hs
  have hempty := hempty (by simp [hs])
  have hwait := hwait (by simp [hs])
  unfold Device.afterStream
  split
  · split
    · exact ⟨Device.collectorWf_of_empty (by simp [hs]) hempty,
        ⟨fun _ => ⟨by dsimp only; omega, hlen⟩, fun hn => absurd hs hn⟩,
        ⟨fun he => by simp [hs] at he, fun _ => hwait⟩, hrest⟩
    · rename_i hcyclic
      have hq : ({ d with rpos := 0, rbuf := [], seq := .idle } : Device).Quiet :=
        ⟨⟨rfl, rfl, by simpa using hcyclic⟩, hwait⟩
      obtain ⟨hresponse, hwait⟩ := hq.wf (c := c) (by simp) (by simp)
      exact ⟨Device.collectorWf_of_empty (by simp) hempty, hresponse, hwait, hrest⟩
  · exact ⟨Device.collectorWf_of_empty (by simp [hs]) hempty,
      ⟨fun _ => ⟨by dsimp only; omega, hlen⟩, fun hn => absurd hs hn⟩,
      ⟨fun he => by simp [hs] at he, fun _ => hwait⟩, hrest⟩

/-- A unit of a dummy wait leaves the wait shorter, or ends it (R248). -/
theorem dummyUnit_wf {s t : State} (h : dummyUnit s = .next t) (hs : s.dev.seq = .dummyWait) (hw : s.dev.Wf s.config s.part) :
    t.dev.Wf s.config s.part := by
  obtain ⟨⟨-, hempty⟩, ⟨-, hresponse⟩, ⟨hwait, -⟩, hrest⟩ := hw
  obtain ⟨-, htarget, halign⟩ := hwait hs
  have hempty := hempty (by simp [hs])
  have hresponse := hresponse (by simp [hs])
  rw [dummyUnit_eq] at h
  cases h
  dsimp only
  split
  · have hq : ({ s.dev with seq := .read, dummyCount := 0, dummyTarget := 0 } : Device).Quiet := ⟨hresponse, rfl, rfl⟩
    obtain ⟨hresponse, hwait⟩ := hq.wf (c := s.config) (by simp) (by simp)
    exact ⟨Device.collectorWf_of_empty (by simp) hempty, hresponse, hwait, hrest⟩
  · rename_i hmore
    exact ⟨Device.collectorWf_of_empty (by simp [hs]) hempty, ⟨fun he => by simp [hs] at he, fun _ => hresponse⟩,
      ⟨fun _ => ⟨by dsimp only; omega, htarget, halign⟩, fun hn => absurd hs hn⟩, hrest⟩

/-- Every transfer keeps the invariant. -/
theorem Transferred.wf {s t : State} {tx w : Nat} (h : Transferred s tx w t) (hinv : s.Inv) : t.dev.Wf s.config s.part := by
  have hparams := hinv.not_collecting
  have hcollecting := hinv.collecting
  obtain ⟨-, hp, hcollector, hengine⟩ := hinv
  cases h with
  | unknown hseq hop =>
    rw [State.clearResetEnable_of_unknown hop]
    exact ⟨hcollector, hengine⟩
  | @ran i _ hseq hop hneed hi hrun =>
    have hc := exec_next hrun
    have hq := Device.quiet_of_engineWf hengine (by simp [hseq]) (by simp [hseq])
    rw [State.acceptOpcode_eq s _ _ hop] at hc
    exact ⟨Device.collectorWf_of_empty hc.seq_ne_collecting (hc.params (hparams (by simp [hseq]))),
      hc.engineWf hp ⟨hq.response, hq.wait⟩ hengine⟩
  | @began op hseq hop hneed =>
    have hq := Device.quiet_of_engineWf hengine (by simp [hseq]) (by simp [hseq])
    rw [State.acceptOpcode_eq s _ _ hop]
    have hq' : ({ s.dev with
        cmd := BitVec.ofNat 8 tx, widthHint := hintOf op, rstEn := if op = .resetMemory then s.dev.rstEn else false
        need := needOf s.mode op, pbuf := [], seq := .collectingParams } : Device).Quiet := ⟨hq.response, hq.wait⟩
    obtain ⟨hresponse, hwait⟩ := hq'.wf (c := s.config) (by simp) (by simp)
    refine ⟨⟨fun _ => ⟨Nat.pos_of_ne_zero hneed, ?_⟩, fun hn => absurd rfl hn⟩, hresponse, hwait, hengine.2.2⟩
    exact congrArg (Option.map _) hop
  | collected hseq hlen =>
    obtain ⟨hlt, -⟩ := hcollecting hseq
    obtain ⟨hagrees, -⟩ := hcollector
    refine ⟨⟨fun _ => ⟨?_, (hagrees hseq).2⟩, fun hn => absurd hseq hn⟩, hengine⟩
    have hlt' : s.dev.pbuf.length + 1 < s.dev.need := by omega
    simpa using hlt'
  | completed hseq hw hlen hop hparams hrun =>
    have hc := exec_next hrun
    have hq := Device.quiet_of_engineWf hengine (by simp [hseq]) (by simp [hseq])
    exact ⟨Device.collectorWf_of_empty hc.seq_ne_collecting ⟨rfl, rfl⟩, hc.engineWf hp ⟨hq.response, hq.wait⟩ hengine⟩
  | streamed hseq hv => exact afterStream_wf hseq ⟨hcollector, hengine⟩
  | programmed hseq halign hrun => exact programUnit_wf hrun hp hseq ⟨hcollector, hengine⟩
  | read hseq halign hrun =>
    obtain ⟨-, rfl⟩ := readUnit_next hrun
    obtain ⟨hresponse, ⟨-, hwait⟩, -, hrest⟩ := hengine
    exact ⟨hcollector, hresponse, ⟨fun he => by simp [hseq] at he, fun _ => hwait (by simp [hseq])⟩,
      advance_lt s.part s.dev.cur w hp, hrest⟩
  | waited hseq hrun => exact dummyUnit_wf hrun hseq ⟨hcollector, hengine⟩

/-- A part of positive sizes has a first bit for the cursor. -/
theorem Part.capBits_pos {p : Part} (hp : p.Wf) : 0 < p.capBits :=
  Nat.lt_of_le_of_lt (Nat.zero_le _) (advance_lt p 0 0 hp)

/-- What a power-on makes meets the invariant (R310, R311). -/
theorem powerOn_wf {p : Part} (hp : p.Wf) (seed : Option Memory) (s : State) :
    (((s.setPart p).setDev (attached s.config p seed)).resetRegisters).dev.Wf s.config p := by
  have hstorage : (attached s.config p seed).StorageWf s.config p := by
    cases seed with
    | none => exact ⟨Memory.wf_nil, by simp [attached]⟩
    | some cells =>
      obtain ⟨hw, hlt, -⟩ := Memory.ofSeed_spec (e := s.config.erased) p.cap cells
      exact ⟨hw, hlt⟩
  obtain ⟨hresponse, hwait⟩ := Device.Quiet.wf (c := s.config)
    (d := (((s.setPart p).setDev (attached s.config p seed)).resetRegisters).dev) ⟨⟨rfl, rfl, rfl⟩, rfl, rfl⟩
    (by simp [State.resetRegisters]) (by simp [State.resetRegisters])
  exact ⟨Device.collectorWf_of_empty (by simp [State.resetRegisters]) ⟨rfl, rfl⟩, hresponse, hwait, Part.capBits_pos hp,
    hstorage, fun q hq => by cases hq⟩

/-- A change of the bus width rescales a wait inside its bounds (R28, R250). -/
theorem withLines_waitWf {c : Config} {d : Device} (hc : c.Wf) (new : Lines) (h : d.WaitWf c) :
    (d.withLines c.dummyRound new).WaitWf c := by
  obtain ⟨-, -, -, -, hround, -⟩ := hc
  obtain ⟨hin, hout⟩ := h
  unfold Device.withLines
  split
  · rename_i hs
    obtain ⟨hs, -⟩ := hs
    obtain ⟨hlt, hbound, halign⟩ := hin hs
    have hpos : 0 < (d.dummyTarget - d.dummyCount) * d.lines.toNat := Nat.mul_pos (by omega) (Lines.toNat_pos d.lines)
    have hle : (d.dummyTarget - d.dummyCount) * d.lines.toNat ≤ 4 * c.maxDummyUnits :=
      Nat.le_trans (Nat.mul_le_mul_right _ (Nat.sub_le _ _)) hbound
    exact ⟨fun _ => ⟨one_le_divide _ _ _ hround (Lines.toNat_pos new) hpos, divide_mul_le _ _ _ new hpos hle, halign⟩,
      fun hn => absurd hs hn⟩
  · rename_i hs
    refine ⟨fun hw => ?_, hout⟩
    have hnew : new = d.lines := by
      by_contra hne
      exact hs ⟨hw, hne⟩
    rw [hnew]
    exact hin hw

/-- A change of the bus width touches nothing but the lines and the wait (R250). -/
theorem withLines_wf {c : Config} {p : Part} {d : Device} (hc : c.Wf) (new : Lines) (h : d.Wf c p) :
    (d.withLines c.dummyRound new).Wf c p := by
  obtain ⟨hcollector, hresponse, hwait, hrest⟩ := h
  have hwait := withLines_waitWf hc new hwait
  unfold Device.withLines at hwait ⊢
  split
  · rename_i hs
    rw [if_pos hs] at hwait
    exact ⟨hcollector, hresponse, hwait, hrest⟩
  · rename_i hs
    rw [if_neg hs] at hwait
    exact ⟨hcollector, hresponse, hwait, hrest⟩

/-- Chip select leaves `IDLE` with nothing begun (R249). -/
theorem select_wf {asserted : Bool} {s t : State} (h : select asserted s = .next t) (hw : s.dev.Wf s.config s.part) :
    t.dev.Wf s.config s.part := by
  obtain ⟨-, -, -, hcur, hstorage, hdirty⟩ := hw
  rw [select_eq] at h
  cases h
  refine ⟨Device.collectorWf_of_empty (by simp) ⟨rfl, rfl⟩, ⟨fun he => (by cases he), fun _ => ⟨rfl, rfl, rfl⟩⟩,
    ⟨fun he => (by cases he), fun _ => ⟨rfl, rfl⟩⟩, hcur, hstorage, ?_⟩
  cases asserted
  · exact fun q hq => by cases hq
  · exact hdirty

/-- Settles O12, by the kind of the event that was handled. -/
theorem stepKeepsTheInvariant : Obligations.StepKeepsTheInvariant := by
  intro s t hinv h
  obtain ⟨hc, hp, hw⟩ := id hinv
  rcases step_next h with ⟨-, rfl⟩ | ⟨e, rest, -, hrun⟩
  · exact ⟨hc, hp, hw⟩
  · cases e with
    | powerOn p seed =>
      obtain ⟨hp, rfl⟩ := powerOn_next hrun
      exact ⟨hc, hp, powerOn_wf hp seed (s.accept rest)⟩
    | select asserted =>
      have hw' := select_wf (s := s.accept rest) hrun hw
      rw [handle, select_eq] at hrun
      cases hrun
      exact ⟨hc, hp, hw'⟩
    | setBusWidth l =>
      obtain ⟨new, -, rfl⟩ := setBusWidth_next hrun
      exact ⟨hc, hp, withLines_wf hc new hw⟩
    | transfer tx w =>
      have htrans := transferred hrun
      obtain ⟨hconfig, hpart, -⟩ := htrans.surroundings
      rw [State.Inv, hconfig, hpart]
      exact ⟨hc, hp, htrans.wf hinv⟩
    | snapshot =>
      rw [handle, snapshot_eq] at hrun
      cases hrun
      obtain ⟨hcollector, hresponse, hwait, hcur, hstorage, -⟩ := hw
      exact ⟨hc, hp, hcollector, hresponse, hwait, hcur, hstorage, fun q hq => by cases hq⟩
    | restore b =>
      obtain ⟨⟨-, hb, -⟩, rfl⟩ := restore_next hrun
      exact ⟨hc, hp, hb⟩

/-- Settles O14, by running the checks on the reset state. -/
theorem resetMeetsTheInvariant : Obligations.ResetMeetsTheInvariant :=
  ⟨Config.spec_wf, by decide, by decide⟩

/-! ### Widths (R20) -/

/-- No opcode asks for more than an address and its mode/dummy bytes (R103). -/
theorem needOf_le (m : DecodeMode) (op : Op) : needOf m op ≤ 4 + extraLen m.config m.variant op := by
  have haddr : addrLen m op ≤ 4 := by
    unfold addrLen
    repeat' split
    all_goals omega
  unfold needOf
  repeat' split
  all_goals omega

/-- The longest collection fits the parameter buffer (R7, R23). -/
theorem four_add_extraLen_le {c : Config} (hc : c.Wf) (v : Variant) (op : Op) : 4 + extraLen c v op ≤ c.pmax := by
  obtain ⟨-, -, hextra, -⟩ := hc
  have hle (x : PerVariant) (hx : x ∈ [c.dioExtra, c.qioExtra]) : 4 + x.get v ≤ c.pmax := by
    obtain ⟨hgeneric, hmode, hnvcfg⟩ := hextra x hx
    cases v
    · exact hgeneric
    · exact hmode
    · exact hnvcfg
  have hdio := hle c.dioExtra (by simp)
  have hqio := hle c.qioExtra (by simp)
  unfold extraLen
  split <;> omega

/-- Under the spec's parameters at most five mode/dummy bytes follow an address (R7, R103). -/
theorem spec_extraLen_le (v : Variant) (op : Op) : extraLen Config.spec v op ≤ 5 := by
  unfold extraLen
  split
  case h_5 => exact Nat.zero_le 5
  all_goals cases v <;> decide

/-- Under the spec's table no wait is longer than 15 units (R111). -/
theorem spec_maxDummyUnits : Config.spec.maxDummyUnits = 15 := by decide

/-- The number of parameter bytes that are waited for is one that an opcode asks for, or 0 (R23). -/
theorem State.Inv.need_le {s : State} (h : s.Inv) : ∃ op, s.dev.need ≤ 4 + extraLen s.config s.part.variant op := by
  by_cases hs : s.dev.seq = .collectingParams
  · obtain ⟨-, op, -, hneed⟩ := h.collecting hs
    exact ⟨op, hneed ▸ needOf_le s.mode op⟩
  · exact ⟨.wren, by simp [(h.not_collecting hs).2]⟩

theorem State.Inv.pbuf_length_le {s : State} (h : s.Inv) : s.dev.pbuf.length ≤ s.dev.need := by
  by_cases hs : s.dev.seq = .collectingParams
  · exact Nat.le_of_lt (h.collecting hs).1
  · simp [(h.not_collecting hs).1]

theorem State.Inv.response_le {s : State} (h : s.Inv) : s.dev.rbuf.length ≤ 5 ∧ s.dev.rpos ≤ s.dev.rbuf.length := by
  obtain ⟨-, -, -, ⟨hin, hout⟩, -⟩ := h
  by_cases hs : s.dev.seq = .streamingResponse
  · obtain ⟨hlt, hle⟩ := hin hs
    exact ⟨hle, Nat.le_of_lt hlt⟩
  · obtain ⟨hrbuf, hrpos, -⟩ := hout hs
    simp [hrbuf, hrpos]

/-- A wait is at most four times the largest requirement of the configuration (R28, R111, R250). -/
theorem State.Inv.wait_le {s : State} (h : s.Inv) :
    s.dev.dummyTarget ≤ 4 * s.config.maxDummyUnits ∧ s.dev.dummyCount ≤ s.dev.dummyTarget := by
  obtain ⟨-, -, -, -, ⟨hin, hout⟩, -⟩ := h
  by_cases hs : s.dev.seq = .dummyWait
  · obtain ⟨hlt, hbound, -⟩ := hin hs
    exact ⟨Nat.le_trans (Nat.le_mul_of_pos_right _ (Lines.toNat_pos s.dev.lines)) hbound, Nat.le_of_lt hlt⟩
  · obtain ⟨hcount, htarget⟩ := hout hs
    simp [hcount, htarget]

/-- Settles O15. -/
theorem invariantKeepsTheWidths : Obligations.InvariantKeepsTheWidths := by
  intro s hinv
  obtain ⟨op, hneed⟩ := hinv.need_le
  have hpmax := four_add_extraLen_le hinv.1 s.part.variant op
  have hpbuf := hinv.pbuf_length_le
  obtain ⟨hrbuf, hrpos⟩ := hinv.response_le
  obtain ⟨htarget, hcount⟩ := hinv.wait_le
  have hcollect (hs : s.dev.seq = .collectingParams) : 1 ≤ s.dev.need :=
    Nat.lt_of_le_of_lt (Nat.zero_le _) (hinv.collecting hs).1
  obtain ⟨⟨-, -, -, hrmax, -, hmax⟩, ⟨-, -, -, hcap, -⟩, -, -, -, hcur, -⟩ := hinv
  rw [Part.capBits] at hcur
  refine ⟨by omega, by omega, by omega, hrpos, by omega, by omega, hcount, hcollect, fun hspec => ?_⟩
  rw [hspec] at hneed htarget
  rw [spec_maxDummyUnits] at htarget
  have hextra := spec_extraLen_le s.part.variant op
  omega

/-! ### The input domain (R10, R130, 93_implementation_defined.md) -/

/-- Every byte has a next state in `IDLE` (R131). -/
theorem decodeOpcode_completes (b : Byte) (s : State) : ∃ t, decodeOpcode b s = .next t := by
  cases hop : opOfByte s.config b with
  | none => exact ⟨_, decodeOpcode_unknown hop⟩
  | some op =>
    by_cases hneed : needOf s.mode op = 0
    · obtain ⟨i, -, rfl, hparams, hf⟩ := HasCommand.of_length (m := s.mode) (op := op) (ps := []) hneed.symm
      obtain ⟨t, ht, -⟩ := exec_completes i (s.acceptOpcode b i.op)
      exact ⟨t, (decodeOpcode_run hop hf hparams).trans ht⟩
    · exact ⟨_, decodeOpcode_begin hop hneed⟩

/-- A cursor inside the storage stands in a byte of it (R25). -/
theorem cursor_byte_lt {s : State} (h : s.dev.cur < s.part.capBits) : s.dev.cur / 8 < s.part.cap :=
  Nat.div_lt_of_lt_mul (h.trans_eq (Nat.mul_comm _ _))

theorem State.Inv.cursor_byte_lt {s : State} (h : s.Inv) : s.dev.cur / 8 < s.part.cap := by
  obtain ⟨-, -, -, -, -, hcur, -⟩ := h
  exact Machine.cursor_byte_lt hcur

theorem programUnit_completes {s : State} (b : Byte) (w : Nat) (h : s.dev.cur / 8 < s.part.cap) :
    ∃ t, programUnit b w s = .next t := by
  simp only [programUnit, if_neg (Nat.not_le.mpr h)]
  split <;> exact ⟨_, rfl⟩

theorem readUnit_completes {s : State} (w : Nat) (h : s.dev.cur / 8 < s.part.cap) : ∃ t, readUnit w s = .next t := by
  simp only [readUnit, if_neg (Nat.not_le.mpr h)]
  exact ⟨_, rfl⟩

theorem streamUnit_completes {s : State} (h : s.dev.rpos < s.dev.rbuf.length) : ∃ t, streamUnit s = .next t := by
  simp only [streamUnit, List.getElem?_eq_getElem h]
  exact ⟨_, rfl⟩

/-- Every transfer of the domain completes (R130). -/
theorem transfer_completes {s : State} {tx w : Nat} {rest : List Event} (hinv : s.Inv) (hin : s.Waiting (.transfer tx w) rest)
    (hdom : InDomain s (.transfer tx w)) : ∃ t, step s = .next t := by
  obtain ⟨hv, hbyte, hdata⟩ := hdom
  have hcur := hinv.cursor_byte_lt
  have hstep : step s = transfer tx w (s.accept rest) := step_waiting hin
  unfold transfer at hstep
  rw [if_pos hv] at hstep
  cases hs : s.dev.seq with
  | idle =>
    obtain rfl := hbyte (.inl hs)
    obtain ⟨t, ht⟩ := decodeOpcode_completes (BitVec.ofNat 8 tx) (s.accept rest)
    exact ⟨t, (step_idle hs hin hv.2).trans ht⟩
  | collectingParams =>
    obtain rfl := hbyte (.inr (.inl hs))
    have hrun := stepCollectsAndRunsTheCommand s tx rest hinv hs hin hv.2
    dsimp only at hrun
    split at hrun
    · obtain ⟨i, t, -, -, ht, -⟩ := hrun
      exact ⟨_, ht⟩
    · exact ⟨_, hrun⟩
  | streamingResponse =>
    obtain rfl := hbyte (.inr (.inr hs))
    obtain ⟨-, -, -, ⟨hresponse, -⟩, -⟩ := hinv
    simp only [State.accept_dev, hs, if_true] at hstep
    rw [hstep]
    exact streamUnit_completes (hresponse hs).1
  | pageProgram =>
    simp only [State.accept_dev, hs, hdata (.inl hs), if_true] at hstep
    rw [hstep]
    exact programUnit_completes _ w hcur
  | read =>
    simp only [State.accept_dev, hs, hdata (.inr hs), if_true] at hstep
    rw [hstep]
    exact readUnit_completes w hcur
  | dummyWait =>
    simp only [State.accept_dev, hs] at hstep
    exact ⟨_, hstep.trans (dummyUnit_eq _)⟩

/-- Settles O16. -/
theorem eventsOfTheDomainComplete : Obligations.EventsOfTheDomainComplete := by
  intro s e rest hinv hin hdom
  cases e with
  | transfer tx w => exact transfer_completes hinv hin hdom
  | powerOn p seed => exact ⟨_, (step_waiting hin).trans (if_pos hdom)⟩
  | select asserted => exact ⟨_, (step_waiting hin).trans (select_eq asserted _)⟩
  | setBusWidth l =>
    rw [step_waiting hin]
    rcases hdom with rfl | rfl | rfl <;> exact ⟨_, rfl⟩
  | snapshot => exact ⟨_, (step_waiting hin).trans (snapshot_eq _)⟩
  | restore b => exact ⟨_, (step_waiting hin).trans (if_pos hdom)⟩

/-- Only 1, 2 and 4 are numbers of lines (R250). -/
theorem ofNat?_eq_none {l : Nat} (h : l ≠ 1 ∧ l ≠ 2 ∧ l ≠ 4) : Lines.ofNat? l = none := by
  obtain ⟨h1, h2, h4⟩ := h
  unfold Lines.ofNat?
  split
  · exact absurd rfl h1
  · exact absurd rfl h2
  · exact absurd rfl h4
  · rfl

/-- Settles O17. -/
theorem eventsOutsideTheDomainAreRefused : Obligations.EventsOutsideTheDomainAreRefused := by
  intro s rest
  refine ⟨fun tx w hin hv => ?_, fun tx w hin hv hs hw => ?_, fun tx w hin hv hs hcur => ?_, fun l hin hl => ?_,
    fun p seed hin hp => ?_, fun b hin hb => ?_⟩ <;> rw [step_waiting hin, handle]
  · exact if_neg hv
  · rw [transfer, if_pos hv]
    rcases hs with hs | hs | hs <;> simp [hs, hw]
  · rw [transfer, if_pos hv]
    rcases hs with hs | hs <;> simp [hs, hcur]
  · rw [setBusWidth, ofNat?_eq_none hl]
  · exact if_neg hp
  · exact if_neg hb

end Sys2Proof.Machine
end

section
/-! PROOF. The sink (20_memory.md, R83, R84, R87). A record that carries what storage holds makes the sink agree with storage on
its range, so the agreement is kept by every way in which a step changes storage, the dirty page or the records. -/

namespace Sys2Proof.Machine

/-! ### Records -/

/-- A sink after the record of a range of storage holds storage there, and elsewhere what it held (R84). -/
theorem applyTo_sinkRecord (e : Byte) (k : Nat → Byte) (m : Memory) (off n a : Nat) :
    SinkWrite.applyTo e k (sinkRecord m off n) a = if off ≤ a ∧ a < off + n then m.read e a else k a := by
  simp only [SinkWrite.applyTo, sinkRecord, Memory.read_slice]
  split <;> rfl

/-- The dirty page as a range of addresses (R41, R83). -/
theorem inDirtyPage_iff {p : Part} {d : Device} {q a : Nat} (h : d.dirty = some q) :
    d.InDirtyPage p a ↔ q * p.pageSize ≤ a ∧ a < q * p.pageSize + p.pageSize := by
  simp [Device.InDirtyPage, h, Nat.succ_mul]

theorem not_inDirtyPage {p : Part} {d : Device} {a : Nat} (h : d.dirty = none) : ¬ d.InDirtyPage p a := by
  simp [Device.InDirtyPage, h]

/-! ### What keeps the agreement -/

section
variable {s t : State} {k : Nat → Byte}

/-- Agreement reads the part, the erased value, storage and the dirty page, and nothing else. -/
theorem State.SinkAgrees.congr (h : s.SinkAgrees k) (hc : t.config = s.config) (hp : t.part = s.part) (hm : t.dev.mem = s.dev.mem)
    (hd : t.dev.dirty = s.dev.dirty) : t.SinkAgrees k := by
  intro a ha hn
  rw [State.memRead, hc, hm]
  refine h a (hp ▸ ha) fun hin => hn ?_
  simpa only [Device.InDirtyPage, hp, hd] using hin

/-- Writing the dirty page back makes the sink agree everywhere (R83). -/
theorem State.SinkAgrees.flush (h : s.SinkAgrees k) {a : Nat} (ha : a < s.part.cap) :
    sinkAfter s.config.erased k
      (s.dev.dirty.toList.map (fun q => sinkRecord s.dev.mem (q * s.part.pageSize) s.part.pageSize)) a = s.memRead a := by
  cases hd : s.dev.dirty with
  | none => exact h a ha (not_inDirtyPage hd)
  | some q =>
    simp only [Option.toList_some, List.map_cons, List.map_nil, sinkAfter, List.foldl_cons, List.foldl_nil, applyTo_sinkRecord]
    split
    · rfl
    · rename_i hn
      exact h a ha (mt (inDirtyPage_iff hd).mp hn)

/-- An erase sends the range that it erases, so the agreement is kept (R225). -/
theorem State.SinkAgrees.eraseOrKeep (h : s.SinkAgrees k) (he : ErasesOrKeeps s t) (hf : SameFrame s t) (hs : s.out.sinks = []) :
    t.SinkAgrees (sinkAfter s.config.erased k t.out.sinks) := by
  rcases he with ⟨hm, hsinks⟩ | ⟨-, lo, hi, hm, hsinks⟩
  · rw [hsinks, hs]
    exact h.congr hf.config hf.part hm hf.dirty
  · rw [hsinks, hs]
    intro a ha hn
    simp only [List.nil_append, sinkAfter, List.foldl_cons, List.foldl_nil, applyTo_sinkRecord, State.memRead, hf.config]
    split
    · rfl
    · rename_i hout
      have hkept : t.dev.mem.read s.config.erased a = s.dev.mem.read s.config.erased a := by
        rw [hm, Memory.read_erase, if_neg (by omega)]
      rw [hkept]
      refine h a (hf.part ▸ ha) fun hin => hn ?_
      simpa only [Device.InDirtyPage, hf.part, hf.dirty] using hin

/-- A byte stands in its page. -/
theorem byte_in_page {n : Nat} (hn : 0 < n) (a : Nat) : a / n * n ≤ a ∧ a < a / n * n + n :=
  ⟨Nat.div_mul_le_self a n, Nat.lt_div_mul_add hn⟩

/-- A program unit changes a byte of the page that it marks dirty, and the page left behind is sent (R83, R245). -/
theorem State.SinkAgrees.program {b : Byte} {w : Nat} (h : s.SinkAgrees k) (hp : s.part.Wf) (hmem : s.dev.mem.Wf s.config.erased)
    (hs : s.out.sinks = []) (hrun : programUnit b w s = .next t) : t.SinkAgrees (sinkAfter s.config.erased k t.out.sinks) := by
  obtain ⟨-, hconfig, hpart, -, hdev, hout⟩ := programUnit_next hrun
  cases hw : s.dev.wel with
  | false =>
    simp only [hw] at hdev hout
    rw [hout, hs]
    exact h.congr hconfig hpart (by rw [hdev]; rfl) (by rw [hdev]; rfl)
  | true =>
    simp only [hw, if_true] at hdev hout
    have hdirty : t.dev.dirty = some (s.dev.cur / 8 / s.part.pageSize) := by rw [hdev]
    intro x hx hn
    rw [inDirtyPage_iff hdirty, hpart] at hn
    have hne : x ≠ s.dev.cur / 8 := by rintro rfl; exact hn (byte_in_page hp.1 _)
    have hread : t.memRead x = s.memRead x := by
      rw [State.memRead, hconfig, hdev]
      exact (Memory.read_write _ _ _ _ hmem).trans (if_neg hne)
    rw [hread, hout, hs, List.nil_append]
    rw [hpart] at hx
    cases hd : s.dev.dirty with
    | none => exact h x hx (not_inDirtyPage hd)
    | some q =>
      by_cases hq : q = s.dev.cur / 8 / s.part.pageSize
      · subst hq
        simp only [if_true]
        exact h x hx (mt (inDirtyPage_iff hd).mp hn)
      · have hflush := h.flush hx
        simp only [hd, Option.toList_some, List.map_cons, List.map_nil] at hflush
        simpa only [if_neg hq] using hflush

end

/-! ### Every event -/

/-- A transfer keeps the agreement (R84, R87). -/
theorem Transferred.sinkAgrees {s t : State} {tx w : Nat} {k : Nat → Byte} (h : Transferred s tx w t) (hinv : s.Inv)
    (hs : s.out.sinks = []) (hk : s.SinkAgrees k) : t.SinkAgrees (sinkAfter s.config.erased k t.out.sinks) := by
  have kept {u : State} (hc : u.config = s.config) (hp : u.part = s.part) (hm : u.dev.mem = s.dev.mem)
      (hd : u.dev.dirty = s.dev.dirty) (hsinks : u.out.sinks = s.out.sinks) :
      u.SinkAgrees (sinkAfter s.config.erased k u.out.sinks) := by
    rw [hsinks, hs]
    exact hk.congr hc hp hm hd
  cases h with
  | unknown hseq hop => rw [State.clearResetEnable_of_unknown hop]; exact kept rfl rfl rfl rfl rfl
  | @ran i _ hseq hop hneed hparams hrun =>
    have hc := exec_next hrun
    have haccepted : (s.acceptOpcode (BitVec.ofNat 8 tx) i.op).SinkAgrees k :=
      hk.congr (by simp) (by simp) (by simp) (by simp)
    simpa using haccepted.eraseOrKeep hc.storage.1 hc.sameFrame (by simpa using hs)
  | began hseq hop hneed => rw [State.acceptOpcode_eq s _ _ hop]; exact kept rfl rfl rfl rfl rfl
  | completed hseq hw hlen hop hparams hrun =>
    have hc := exec_next hrun
    have hpushed : (s.pushParam (BitVec.ofNat 8 tx)).SinkAgrees k := hk.congr rfl rfl rfl rfl
    exact (hpushed.eraseOrKeep hc.storage.1 hc.sameFrame hs).congr rfl rfl rfl rfl
  | streamed hseq hv =>
    rw [afterStream_eq]
    exact kept rfl rfl rfl rfl rfl
  | programmed hseq halign hrun =>
    obtain ⟨-, hp, -, -, -, -, ⟨hmem, -⟩, -⟩ := hinv
    exact hk.program hp hmem hs hrun
  | read hseq halign hrun => obtain ⟨-, rfl⟩ := readUnit_next hrun; exact kept rfl rfl rfl rfl rfl
  | waited hseq hrun =>
    rw [dummyUnit_eq] at hrun
    cases hrun
    refine kept rfl rfl ?_ ?_ rfl <;> dsimp only <;> split <;> rfl
  | collected hseq hlen => exact kept rfl rfl rfl rfl rfl

/-- What chip select does to storage, the dirty page and the records (R83, R249). -/
theorem State.SinkAgrees.select {s t : State} {k : Nat → Byte} {asserted : Bool} (hk : s.SinkAgrees k) (hs : s.out.sinks = [])
    (h : Machine.select asserted s = .next t) : t.SinkAgrees (sinkAfter s.config.erased k t.out.sinks) := by
  rw [select_eq] at h
  cases h
  simp only [hs, List.nil_append]
  cases asserted with
  | true => exact hk.congr rfl rfl rfl rfl
  | false => exact fun a ha _ => hk.flush ha

/-- Settles O58, by the kind of the event. -/
theorem sinkAgreesOutsideTheDirtyPage : Obligations.SinkAgreesOutsideTheDirtyPage := by
  intro s t e rest k hinv hin hpower hrestore hk h
  rw [step_waiting hin] at h
  cases e with
  | powerOn p seed => exact absurd rfl (hpower p seed)
  | restore b => exact absurd rfl (hrestore b)
  | select asserted => exact State.SinkAgrees.select (s := s.accept rest) hk rfl h
  | setBusWidth l =>
    obtain ⟨new, -, rfl⟩ := setBusWidth_next h
    rw [withLines_eq]
    exact hk.congr rfl rfl rfl rfl
  | transfer tx w => exact (transferred h).sinkAgrees (s := s.accept rest) hinv rfl hk
  | snapshot =>
    rw [handle, snapshot_eq] at h
    cases h
    exact fun a ha _ => State.SinkAgrees.flush (s := s.accept rest) hk ha

/-- Settles O59: chip select keeps the agreement, and no page is dirty after its deassertion. -/
theorem frameEndLeavesTheSinkEqual : Obligations.FrameEndLeavesTheSinkEqual := by
  intro s rest k hinv hin hk
  have hstep := (step_waiting hin).trans (select_eq false (s.accept rest))
  refine ⟨_, hstep, rfl, rfl, fun a ha => ?_⟩
  exact sinkAgreesOutsideTheDirtyPage s _ _ rest k hinv hin (by simp) (by simp) hk hstep a ha (not_inDirtyPage rfl)

end Sys2Proof.Machine
end

section
/-! PROOF. Histories: what every event leaves in the latches, the registers and storage (10_state.md, R29 to R40; 20_memory.md,
R82; 60_exceptions.md, R292). A transfer reaches the latches in one of four ways (`LatchStep`), and a command writes them as
`latchesAfter` says; each history is read off these two, one field at a time. -/

namespace Sys2Proof.Machine

/-! ### What a command leaves in the latches and registers -/

section
variable {i : Instr} {s : State}

theorem latchesAfter_resetMemory :
    latchesAfter .resetMemory s = if s.dev.rstEn then s.resetRegisters.dev.latches else s.dev.latches := rfl

theorem latchesAfter_wnvcr (v : BitVec 16) :
    latchesAfter (.wnvcr v) s = if s.dev.wel then { s.dev.latches with nvcfg := v } else s.dev.latches := rfl

theorem latchesAfter_wvcr (b : Byte) :
    latchesAfter (.wvcr b) s = if s.dev.wel then { s.dev.latches with vcfg := b } else s.dev.latches := rfl

theorem latchesAfter_wevcr (b : Byte) :
    latchesAfter (.wevcr b) s = if s.dev.wel then { s.dev.latches with evcfg := b } else s.dev.latches := rfl

theorem latchesAfter_extendAddrWrite (b : Byte) :
    latchesAfter (.extendAddrWrite b) s = if s.dev.wel then { s.dev.latches with ear := b } else s.dev.latches := rfl

theorem latchesAfter_brwr (b : Byte) :
    latchesAfter (.brwr b) s = if s.dev.wel then { s.dev.latches with ear := b } else s.dev.latches := rfl

/-- An honored reset leaves the latches and registers of R312. -/
theorem latchesAfter_reset (hi : i.op = .resetMemory) (hr : s.dev.rstEn = true) :
    latchesAfter i s = s.resetRegisters.dev.latches := by
  obtain rfl := op_eq_resetMemory_iff.mp hi
  exact if_pos hr

/-- Short of an honored reset each latch is written by its own commands alone (R29 to R32). -/
theorem latchesAfter_latches (h : ¬ (i.op = .resetMemory ∧ s.dev.rstEn = true)) :
    (latchesAfter i s).wel =
        (if i.op = .wren then true else if i.op = .wrdi ∨ i.op = .wrsr then false else s.dev.wel) ∧
      (latchesAfter i s).rstEn = (if i.op = .resetEnable then true else s.dev.rstEn) ∧
      (latchesAfter i s).a4b = (if i.op = .en4b then true else if i.op = .ex4b then false else s.dev.a4b) ∧
      (latchesAfter i s).aai =
        (if i.op = .wrdi then false else if i.op = .aaiWp ∧ i ≠ .aaiWp none then true else s.dev.aai) := by
  cases i with
  | resetMemory =>
    have hl : latchesAfter .resetMemory s = s.dev.latches := if_neg fun hr => h ⟨rfl, hr⟩
    rw [hl]
    exact ⟨rfl, rfl, rfl, rfl⟩
  | wnvcr _ | wvcr _ | wevcr _ | extendAddrWrite _ | brwr _ =>
    simp only [latchesAfter_wnvcr, latchesAfter_wvcr, latchesAfter_wevcr, latchesAfter_extendAddrWrite, latchesAfter_brwr]
    split <;> exact ⟨rfl, rfl, rfl, rfl⟩
  | aaiWp a => cases a <;> exact ⟨rfl, rfl, rfl, rfl⟩
  | _ => exact ⟨rfl, rfl, rfl, rfl⟩

/-- Short of an honored reset only a configuration write under write-enable writes a register (R35 to R38, R292). -/
theorem latchesAfter_registers (h : ¬ (i.op = .resetMemory ∧ s.dev.rstEn = true)) (hw : s.dev.wel = false) :
    (latchesAfter i s).ear = s.dev.ear ∧ (latchesAfter i s).nvcfg = s.dev.nvcfg ∧ (latchesAfter i s).vcfg = s.dev.vcfg ∧
      (latchesAfter i s).evcfg = s.dev.evcfg := by
  cases i with
  | resetMemory =>
    have hl : latchesAfter .resetMemory s = s.dev.latches := if_neg fun hr => h ⟨rfl, hr⟩
    rw [hl]
    exact ⟨rfl, rfl, rfl, rfl⟩
  | wnvcr _ | wvcr _ | wevcr _ | extendAddrWrite _ | brwr _ =>
    simp only [latchesAfter_wnvcr, latchesAfter_wvcr, latchesAfter_wevcr, latchesAfter_extendAddrWrite, latchesAfter_brwr, hw]
    exact ⟨rfl, rfl, rfl, rfl⟩
  | aaiWp a => cases a <;> exact ⟨rfl, rfl, rfl, rfl⟩
  | _ => exact ⟨rfl, rfl, rfl, rfl⟩

/-- Only WNVCR writes the non-volatile word, and only under write-enable (R36). -/
theorem latchesAfter_nvcfg (h : (latchesAfter i s).nvcfg ≠ s.dev.nvcfg) : i.op = .wnvcr ∧ s.dev.wel = true := by
  cases i with
  | wnvcr v =>
    refine ⟨rfl, ?_⟩
    by_contra hw
    simp only [latchesAfter_wnvcr, if_neg hw] at h
    exact h rfl
  | resetMemory | wvcr _ | wevcr _ | extendAddrWrite _ | brwr _ =>
    simp only [latchesAfter_resetMemory, latchesAfter_wvcr, latchesAfter_wevcr, latchesAfter_extendAddrWrite,
      latchesAfter_brwr] at h
    split at h <;> exact absurd rfl h
  | aaiWp a => cases a <;> exact absurd rfl h
  | _ => exact absurd rfl h

end

/-! ### How a transfer reaches the latches and registers -/

/-- The four ways in which a transfer reaches the latches and registers: an opcode byte that runs no command, a command run by its
opcode, a command run by its last parameter byte, and not at all. -/
inductive LatchStep (s : State) (tx w : Nat) (t : State) : Prop
  | cleared (hseq : s.dev.seq = .idle)
      (hop : ∀ op, opOfByte s.config (BitVec.ofNat 8 tx) = some op → needOf s.mode op ≠ 0)
      (hl : t.dev.latches = { s.dev.latches with rstEn := false })
  | ran {i : Instr} {u : State} (hseq : s.dev.seq = .idle) (hop : opOfByte s.config (BitVec.ofNat 8 tx) = some i.op)
      (hneed : needOf s.mode i.op = 0) (hparams : instrOfParams i.op 0 [] = some i)
      (hconfig : u.config = s.config) (hpart : u.part = s.part)
      (hdev : u.dev = { s.dev with
        cmd := BitVec.ofNat 8 tx, widthHint := hintOf i.op, rstEn := if i.op = .resetMemory then s.dev.rstEn else false })
      (hl : t.dev.latches = latchesAfter i u)
  | completed {i : Instr} {u : State} (hseq : s.dev.seq = .collectingParams) (hw : w = 8)
      (hlen : s.dev.pbuf.length + 1 = s.dev.need) (hop : opOfByte s.config s.dev.cmd = some i.op)
      (hparams : instrOfParams i.op (extraLen s.config s.part.variant i.op) (s.dev.pbuf ++ [BitVec.ofNat 8 tx]) = some i)
      (hdev : u.dev = { s.dev with pbuf := s.dev.pbuf ++ [BitVec.ofNat 8 tx] }) (hl : t.dev.latches = latchesAfter i u)
  | kept (hseq : s.dev.seq ≠ .idle) (hlen : s.dev.seq = .collectingParams → s.dev.pbuf.length + 1 ≠ s.dev.need)
      (hl : t.dev.latches = s.dev.latches)

theorem programUnit_latches {b : Byte} {w : Nat} {s t : State} (h : programUnit b w s = .next t) :
    t.dev.latches = s.dev.latches := by
  obtain ⟨-, -, -, -, hdev, -⟩ := programUnit_next h
  rw [hdev]
  rfl

theorem dummyUnit_latches {s t : State} (h : dummyUnit s = .next t) : t.dev.latches = s.dev.latches := by
  rw [dummyUnit_eq] at h
  cases h
  dsimp only
  split <;> rfl

theorem Transferred.latchStep {s t : State} {tx w : Nat} (h : Transferred s tx w t) : LatchStep s tx w t := by
  cases h with
  | unknown hseq hop =>
    rw [State.clearResetEnable_of_unknown hop]
    exact .cleared hseq (by simp [hop]) rfl
  | ran hseq hop hneed hparams hrun =>
    exact .ran hseq hop hneed hparams (by simp) (by simp) (by rw [State.acceptOpcode_eq s _ _ hop]) (exec_latches hrun)
  | @began op hseq hop hneed =>
    refine .cleared hseq (fun op' hop' => by obtain rfl := Option.some.inj (hop.symm.trans hop'); exact hneed) ?_
    have hne : op ≠ .resetMemory := by rintro rfl; exact hneed rfl
    rw [State.acceptOpcode_eq s _ _ hop, if_neg hne]
    rfl
  | collected hseq hlen => exact .kept (by simp [hseq]) (fun _ => hlen) rfl
  | completed hseq hw hlen hop hparams hrun =>
    have hl := exec_latches hrun
    exact .completed hseq hw hlen hop hparams rfl hl
  | streamed hseq hv =>
    refine .kept (by simp [hseq]) (by simp [hseq]) ?_
    rw [afterStream_eq]
    rfl
  | programmed hseq halign hrun => exact .kept (by simp [hseq]) (by simp [hseq]) (programUnit_latches hrun)
  | read hseq halign hrun => obtain ⟨-, rfl⟩ := readUnit_next hrun; exact .kept (by simp [hseq]) (by simp [hseq]) rfl
  | waited hseq hrun => exact .kept (by simp [hseq]) (by simp [hseq]) (dummyUnit_latches hrun)

/-- What a step on a transfer does to the latches and registers. -/
theorem step_latchStep {s t : State} {tx w : Nat} {rest : List Event} (hin : s.Waiting (.transfer tx w) rest)
    (h : step s = .next t) : LatchStep s tx w t := by
  rw [step_waiting hin] at h
  cases (transferred h).latchStep with
  | cleared hseq hop hl => exact .cleared hseq hop hl
  | ran hseq hop hneed hparams hconfig hpart hdev hl => exact .ran hseq hop hneed hparams hconfig hpart hdev hl
  | completed hseq hw hlen hop hparams hdev hl => exact .completed hseq hw hlen hop hparams hdev hl
  | kept hseq hlen hl => exact .kept hseq hlen hl

/-- A command that its opcode runs is none with data bytes (R101, R103). -/
theorem op_ne_of_ran {m : DecodeMode} {op : Op} (h : needOf m op = 0) : op ≠ .wrsr ∧ op ≠ .wnvcr := by
  constructor <;> rintro rfl <;> cases h

/-- A command with parameter bytes is no latch command (R101, R103). -/
theorem op_ne_of_completed {op : Op} {x : Nat} {ps : List Byte} {b : Byte} {i : Instr}
    (h : instrOfParams op x (ps ++ [b]) = some i) :
    op ≠ .wren ∧ op ≠ .wrdi ∧ op ≠ .resetEnable ∧ op ≠ .resetMemory ∧ op ≠ .en4b ∧ op ≠ .ex4b := by
  have hf : ¬ (formatOf op = .f0 ∨ formatOf op = .fr) := fun hf => by simpa using params_eq_nil_of_format h hf
  refine ⟨?_, ?_, ?_, ?_, ?_, ?_⟩ <;> rintro rfl <;> exact hf (.inl rfl)

/-! ### The histories of the latches (R29 to R32) -/

theorem latchesAfter_wel (i : Instr) (s : State) :
    (latchesAfter i s).wel =
      if i.op = .wren then true
      else if i.op = .wrdi ∨ i.op = .wrsr ∨ (i.op = .resetMemory ∧ s.dev.rstEn = true) then false
      else s.dev.wel := by
  by_cases h : i.op = .resetMemory ∧ s.dev.rstEn = true
  · rw [latchesAfter_reset h.1 h.2]
    simp [h, State.resetRegisters, Device.latches]
  · rw [(latchesAfter_latches h).1]
    simp [h]

theorem latchesAfter_rstEn (i : Instr) (s : State) :
    (latchesAfter i s).rstEn =
      if i.op = .resetEnable then true else if i.op = .resetMemory then false else s.dev.rstEn := by
  by_cases h : i.op = .resetMemory ∧ s.dev.rstEn = true
  · rw [latchesAfter_reset h.1 h.2]
    simp [h.1, State.resetRegisters, Device.latches]
  · rw [(latchesAfter_latches h).2.1]
    by_cases hi : i.op = .resetMemory
    · have hr : s.dev.rstEn = false := by simpa [hi] using h
      simp [hi, hr]
    · simp [hi]

theorem latchesAfter_a4b (i : Instr) (s : State) :
    (latchesAfter i s).a4b =
      if i.op = .en4b then true
      else if i.op = .ex4b then false
      else if i.op = .resetMemory ∧ s.dev.rstEn = true then (derivedAtReset s.config s.part s.dev.nvcfg).a4b
      else s.dev.a4b := by
  by_cases h : i.op = .resetMemory ∧ s.dev.rstEn = true
  · rw [latchesAfter_reset h.1 h.2]
    simp [h, State.resetRegisters, Device.latches]
  · rw [(latchesAfter_latches h).2.2.1]
    simp [h]

theorem latchesAfter_aai (i : Instr) (s : State) :
    (latchesAfter i s).aai =
      if i.op = .wrdi ∨ (i.op = .resetMemory ∧ s.dev.rstEn = true) then false
      else if i.op = .aaiWp ∧ i ≠ .aaiWp none then true
      else s.dev.aai := by
  by_cases h : i.op = .resetMemory ∧ s.dev.rstEn = true
  · rw [latchesAfter_reset h.1 h.2]
    simp [h, State.resetRegisters, Device.latches]
  · rw [(latchesAfter_latches h).2.2.2]
    simp [h]

/-- Only V_NVCFG derives the address mode at reset (R312, R313). -/
theorem derivedAtReset_a4b (c : Config) (p : Part) (nv : BitVec 16) :
    (derivedAtReset c p nv).a4b = (decide (p.variant = .nvcfg) && c.derive.a4b.value nv) := by
  cases hv : p.variant <;> simp [derivedAtReset, hv, Config.derived]

/-- While a register write is collected its one data byte is the last (R101). -/
theorem State.Inv.last_of_need {s : State} {op : Op} {n : Nat} (h : s.Inv) (hseq : s.dev.seq = .collectingParams)
    (hop : opOfByte s.config s.dev.cmd = some op) (hneed : needOf s.mode op = n) : s.dev.need = n := by
  obtain ⟨-, op', hop', hneed'⟩ := h.collecting hseq
  obtain rfl := Option.some.inj (hop.symm.trans hop')
  exact hneed'.symm.trans hneed

/-- Settles O23. -/
theorem writeEnableLatchHistory : Obligations.WriteEnableLatchHistory := by
  intro s t tx w rest hinv hin h op
  show t.dev.latches.wel = _
  cases step_latchStep hin h with
  | cleared hseq hop hl =>
    have hwren : op ≠ some .wren := fun he => hop _ he rfl
    have hwrdi : op ≠ some .wrdi := fun he => hop _ he rfl
    have hreset : op ≠ some .resetMemory := fun he => hop _ he rfl
    rw [hl]
    simp [hseq, hwren, hwrdi, hreset, Device.latches]
  | @ran i _ hseq hop hneed hparams hconfig hpart hdev hl =>
    have hi : op = some i.op := hop
    have hwrsr := (op_ne_of_ran hneed).1
    rw [hl, latchesAfter_wel, hdev]
    simp [hseq, hi, hwrsr]
  | @completed i _ hseq hw hlen hop hparams hdev hl =>
    obtain ⟨hwren, hwrdi, -, hreset, -⟩ := op_ne_of_completed hparams
    rw [hl, latchesAfter_wel, hdev]
    simp [hseq, hop, hwren, hwrdi, hreset]
  | kept hseq hlen hl =>
    have hwrsr : ¬ (s.dev.seq = .collectingParams ∧ opOfByte s.config s.dev.cmd = some .wrsr) := by
      rintro ⟨hs, hop⟩
      have hneed := hinv.last_of_need (n := 1) hs hop rfl
      have hlt := (hinv.collecting hs).1
      have := hlen hs
      omega
    rw [hl]
    simp [hseq, hwrsr, Device.latches]

/-- Settles O24. -/
theorem resetEnableLatchHistory : Obligations.ResetEnableLatchHistory := by
  intro s t e rest hin h
  cases e with
  | transfer tx w =>
    show t.dev.latches.rstEn = _
    cases step_latchStep hin h with
    | cleared hseq hop hl =>
      have hne : opOfByte s.config (BitVec.ofNat 8 tx) ≠ some .resetEnable := fun he => hop _ he rfl
      rw [hl]
      simp [hseq, hne]
    | @ran i _ hseq hop hneed hparams hconfig hpart hdev hl =>
      rw [hl, latchesAfter_rstEn, hdev]
      simp only [hseq, hop]
      by_cases hi : i.op = .resetEnable
      · simp [hi]
      · by_cases hr : i.op = .resetMemory <;> simp [hi, hr]
    | @completed i _ hseq hw hlen hop hparams hdev hl =>
      obtain ⟨-, -, henable, hreset, -⟩ := op_ne_of_completed hparams
      rw [hl, latchesAfter_rstEn, hdev]
      simp [hseq, henable, hreset]
    | kept hseq hlen hl =>
      rw [hl]
      simp [hseq, Device.latches]
  | powerOn p seed => rw [step_waiting hin] at h; obtain ⟨-, rfl⟩ := powerOn_next h; rfl
  | select asserted => rw [step_waiting hin, handle, select_eq] at h; cases h; rfl
  | setBusWidth l =>
    rw [step_waiting hin] at h
    obtain ⟨new, -, rfl⟩ := setBusWidth_next h
    dsimp only
    rw [withLines_eq]
    rfl
  | snapshot => rw [step_waiting hin, handle, snapshot_eq] at h; cases h; rfl
  | restore b => rw [step_waiting hin] at h; obtain ⟨-, rfl⟩ := restore_next h; rfl

/-- Settles O25. -/
theorem addressModeLatchHistory : Obligations.AddressModeLatchHistory := by
  intro s t tx w rest hin h op
  show t.dev.latches.a4b = _
  cases step_latchStep hin h with
  | cleared hseq hop hl =>
    have hen4b : op ≠ some .en4b := fun he => hop _ he rfl
    have hex4b : op ≠ some .ex4b := fun he => hop _ he rfl
    have hreset : op ≠ some .resetMemory := fun he => hop _ he rfl
    rw [hl]
    simp [hseq, hen4b, hex4b, hreset, Device.latches]
  | @ran i _ hseq hop hneed hparams hconfig hpart hdev hl =>
    have hi : op = some i.op := hop
    rw [hl, latchesAfter_a4b, derivedAtReset_a4b, hconfig, hpart, hdev]
    simp [hseq, hi]
  | @completed i _ hseq hw hlen hop hparams hdev hl =>
    obtain ⟨-, -, -, hreset, hen4b, hex4b⟩ := op_ne_of_completed hparams
    rw [hl, latchesAfter_a4b, hdev]
    simp [hseq, hreset, hen4b, hex4b]
  | kept hseq hlen hl =>
    rw [hl]
    simp [hseq, Device.latches]

/-- The parameters of AAI_WP are none or an address of three bytes (R215). -/
theorem aaiWp_of_instrOfParams {x : Nat} {ps : List Byte} {i : Instr} (h : instrOfParams .aaiWp x ps = some i) :
    (ps = [] ∧ i = .aaiWp none) ∨ (ps.length = 3 ∧ i ≠ .aaiWp none) := by
  simp only [instrOfParams] at h
  split at h
  · cases h; exact .inl ⟨rfl, rfl⟩
  · cases h; exact .inr ⟨rfl, by simp⟩
  · cases h

/-- Settles O26. -/
theorem aaiLatchHistory : Obligations.AaiLatchHistory := by
  intro s t tx w rest hinv hin h op
  show t.dev.latches.aai = _
  cases step_latchStep hin h with
  | cleared hseq hop hl =>
    have hwrdi : op ≠ some .wrdi := fun he => hop _ he rfl
    have hreset : op ≠ some .resetMemory := fun he => hop _ he rfl
    rw [hl]
    simp [hseq, hwrdi, hreset, Device.latches]
  | @ran i _ hseq hop hneed hparams hconfig hpart hdev hl =>
    have hi : op = some i.op := hop
    have hcontinue : ¬ (i.op = .aaiWp ∧ i ≠ .aaiWp none) := by
      rintro ⟨ha, hne⟩
      rw [ha] at hparams
      rcases aaiWp_of_instrOfParams hparams with ⟨-, hnone⟩ | ⟨hlen, -⟩
      · exact hne hnone
      · cases hlen
    rw [hl, latchesAfter_aai, if_neg hcontinue, hdev]
    simp [hseq, hi]
  | @completed i _ hseq hw hlen hop hparams hdev hl =>
    obtain ⟨-, hwrdi, -, hreset, -⟩ := op_ne_of_completed hparams
    have hbegin (ha : i.op = .aaiWp) : s.dev.pbuf.length = 2 ∧ i ≠ .aaiWp none := by
      rw [ha] at hparams
      rcases aaiWp_of_instrOfParams hparams with ⟨hnil, -⟩ | ⟨hlen, hne⟩
      · simp at hnil
      · exact ⟨by simpa using hlen, hne⟩
    rw [hl, latchesAfter_aai, hdev]
    by_cases ha : i.op = .aaiWp
    · simp [hseq, hop, ha, hbegin ha]
    · simp [hseq, hop, ha, hwrdi, hreset]
  | kept hseq hlen hl =>
    have hbegin : ¬ (s.dev.seq = .collectingParams ∧ opOfByte s.config s.dev.cmd = some .aaiWp ∧ s.dev.pbuf.length = 2) := by
      rintro ⟨hs, hop, hlen2⟩
      have hneed := hinv.last_of_need hs hop rfl
      have hlt := (hinv.collecting hs).1
      have hlast := hlen hs
      have hle : needOf s.mode .aaiWp ≤ 3 := by
        simp only [needOf, formatOf, addrLen]
        split <;> simp
      omega
    rw [hl]
    simp only [hseq, hbegin, false_and, if_false]
    rfl

/-! ### Registers and storage (R36, R40, R82, R292) -/

/-- Settles O32. -/
theorem nonVolatileWordChangesOnlyByItsWrite : Obligations.NonVolatileWordChangesOnlyByItsWrite := by
  intro s t e rest hin h hne
  have kept {p : Prop} (he : t.dev.nvcfg = s.dev.nvcfg) : p := absurd he hne
  cases e with
  | transfer tx w =>
    change t.dev.latches.nvcfg ≠ _ at hne
    cases step_latchStep hin h with
    | cleared hseq hop hl => rw [hl] at hne; exact absurd rfl hne
    | @ran i _ hseq hop hneed hparams hconfig hpart hdev hl =>
      have hnv := (latchesAfter_nvcfg (i := i) (by rw [← hl, hdev]; exact hne)).1
      exact absurd hnv (op_ne_of_ran hneed).2
    | @completed i u hseq hw hlen hop hparams hdev hl =>
      obtain ⟨hnv, hwel⟩ := latchesAfter_nvcfg (i := i) (s := u) (by rw [← hl, hdev]; exact hne)
      rw [hnv] at hop
      rw [hdev] at hwel
      exact .inr (.inr ⟨hwel, hseq, hop, hlen, tx, by rw [hw]⟩)
    | kept hseq hlen hl => rw [hl] at hne; exact absurd rfl hne
  | powerOn p seed => exact .inl ⟨p, seed, rfl⟩
  | select asserted => rw [step_waiting hin, handle, select_eq] at h; cases h; exact kept rfl
  | setBusWidth l =>
    rw [step_waiting hin] at h
    obtain ⟨new, -, rfl⟩ := setBusWidth_next h
    exact kept (by dsimp only; rw [withLines_eq]; rfl)
  | snapshot => rw [step_waiting hin, handle, snapshot_eq] at h; cases h; exact kept rfl
  | restore b => exact .inr (.inl ⟨b, rfl⟩)

/-- An erase without parameters is a bulk erase (R232, R233). -/
theorem bulkErase_of_needOf {m : DecodeMode} {op : Op} (hc : eraseCapOf op ≠ none) (hneed : needOf m op = 0) :
    op = .bulkEraseC7 ∨ op = .bulkErase60 := by
  have haddr := three_le_addrLen m op
  cases op with
  | bulkErase60 => exact .inr rfl
  | bulkEraseC7 => exact .inl rfl
  | erase4k | erase4_4k | erase32k | erase4_32k | eraseSector | erase4Sector => exact absurd (haddr.trans_eq hneed) (by decide)
  | _ => exact absurd rfl hc

/-- An erase with parameters is an address erase (R226 to R231). -/
theorem addressErase_of_params {op : Op} {x : Nat} {ps : List Byte} {b : Byte} {i : Instr} (hc : eraseCapOf op ≠ none)
    (h : instrOfParams op x (ps ++ [b]) = some i) :
    op ∈ [Op.erase4k, .erase4_4k, .erase32k, .erase4_32k, .eraseSector, .erase4Sector] := by
  cases op with
  | bulkErase60 | bulkEraseC7 => exact absurd (params_eq_nil_of_format h (.inl rfl)) (by simp)
  | erase4k | erase4_4k | erase32k | erase4_32k | eraseSector | erase4Sector => simp
  | _ => exact absurd rfl hc

/-- The three ways in which a transfer changes storage, each under write-enable: a program unit, a bulk erase run by its opcode,
and an address erase run by its last address byte. -/
inductive StorageStep (s : State) (tx w : Nat) (t : State) : Prop
  | kept (hmem : t.dev.mem = s.dev.mem)
  | programmed (hwel : s.dev.wel = true) (hseq : s.dev.seq = .pageProgram) (v : Byte)
      (hmem : t.dev.mem = Memory.write s.config.erased s.dev.mem (s.dev.cur / 8) v)
  | bulkErased {op : Op} (hwel : s.dev.wel = true) (hseq : s.dev.seq = .idle)
      (hop : opOfByte s.config (BitVec.ofNat 8 tx) = some op) (hbulk : op = .bulkEraseC7 ∨ op = .bulkErase60)
  | erased {op : Op} (hwel : s.dev.wel = true) (hseq : s.dev.seq = .collectingParams)
      (hlen : s.dev.pbuf.length + 1 = s.dev.need) (hop : opOfByte s.config s.dev.cmd = some op)
      (herase : op ∈ [Op.erase4k, .erase4_4k, .erase32k, .erase4_32k, .eraseSector, .erase4Sector])

theorem Transferred.storageStep {s t : State} {tx w : Nat} (h : Transferred s tx w t) : StorageStep s tx w t := by
  cases h with
  | unknown hseq hop => rw [State.clearResetEnable_of_unknown hop]; exact .kept rfl
  | @ran i _ hseq hop hneed hparams hrun =>
    obtain ⟨heffect, hkeep⟩ := (exec_next hrun).storage
    rw [State.acceptOpcode_eq s _ _ hop] at heffect hkeep
    rcases heffect with ⟨hmem, -⟩ | ⟨hwel, -⟩
    · exact .kept hmem
    · by_cases hc : eraseCapOf i.op = none
      · exact .kept (hkeep hc)
      · exact .bulkErased hwel hseq hop (bulkErase_of_needOf hc hneed)
  | began hseq hop hneed => rw [State.acceptOpcode_eq s _ _ hop]; exact .kept rfl
  | collected hseq hlen => exact .kept rfl
  | @completed i _ hseq hw hlen hop hparams hrun =>
    obtain ⟨heffect, hkeep⟩ := (exec_next hrun).storage
    rcases heffect with ⟨hmem, -⟩ | ⟨hwel, -⟩
    · exact .kept hmem
    · by_cases hc : eraseCapOf i.op = none
      · exact .kept (hkeep hc)
      · exact .erased hwel hseq hlen hop (addressErase_of_params hc hparams)
  | streamed hseq hv => rw [afterStream_eq]; exact .kept rfl
  | programmed hseq halign hrun =>
    obtain ⟨-, -, -, -, hdev, -⟩ := programUnit_next hrun
    cases hw : s.dev.wel with
    | true => exact .programmed hw hseq _ (by rw [hdev]; exact if_pos hw)
    | false => exact .kept (by rw [hdev]; exact if_neg (by simp [hw]))
  | read hseq halign hrun => obtain ⟨-, rfl⟩ := readUnit_next hrun; exact .kept rfl
  | waited hseq hrun =>
    rw [dummyUnit_eq] at hrun
    cases hrun
    refine .kept ?_
    dsimp only
    split <;> rfl

/-- Settles O49. -/
theorem nothingMutatesWithoutWriteEnable : Obligations.NothingMutatesWithoutWriteEnable := by
  intro s t tx w rest hwel hin h
  have hmem : t.dev.mem = s.dev.mem := by
    rw [step_waiting hin] at h
    cases (transferred h).storageStep with
    | kept hmem => exact hmem
    | programmed hw | bulkErased hw | erased hw => exact absurd (hwel.symm.trans hw) (by decide)
  have hnvcfg : t.dev.nvcfg = s.dev.nvcfg := by
    by_contra hne
    rcases nonVolatileWordChangesOnlyByItsWrite s t _ rest hin h hne with ⟨p, seed, he⟩ | ⟨b, he⟩ | ⟨hw, -⟩
    · cases he
    · cases he
    · exact absurd (hwel.symm.trans hw) (by decide)
  refine ⟨hmem, hnvcfg, fun hreset => ?_⟩
  show t.dev.latches.ear = _ ∧ t.dev.latches.vcfg = _ ∧ t.dev.latches.evcfg = _
  cases step_latchStep hin h with
  | cleared hseq hop hl => rw [hl]; exact ⟨rfl, rfl, rfl⟩
  | @ran i u hseq hop hneed hparams hconfig hpart hdev hl =>
    have hnot : ¬ (i.op = .resetMemory ∧ u.dev.rstEn = true) := by
      rintro ⟨hi, hr⟩
      rw [hdev] at hr
      simp only [if_pos hi] at hr
      exact hreset ⟨hseq, by rw [hop, hi], hr⟩
    obtain ⟨hear, -, hvcfg, hevcfg⟩ := latchesAfter_registers hnot (by rw [hdev]; exact hwel)
    rw [hl, hear, hvcfg, hevcfg, hdev]
    exact ⟨rfl, rfl, rfl⟩
  | @completed i u hseq hw hlen hop hparams hdev hl =>
    obtain ⟨-, -, -, hi, -⟩ := op_ne_of_completed hparams
    obtain ⟨hear, -, hvcfg, hevcfg⟩ := latchesAfter_registers (s := u) (fun hr => hi hr.1) (by rw [hdev]; exact hwel)
    rw [hl, hear, hvcfg, hevcfg, hdev]
    exact ⟨rfl, rfl, rfl⟩
  | kept hseq hlen hl => rw [hl]; exact ⟨rfl, rfl, rfl⟩

/-- Settles O50. -/
theorem storageChangesOnlyByProgramAndErase : Obligations.StorageChangesOnlyByProgramAndErase := by
  intro s t e rest a hinv hin h hne
  rw [step_waiting hin] at h
  have hconfig : t.config = s.config := (handle_surroundings h).1
  have kept {p : Prop} (hmem : t.dev.mem = s.dev.mem) : p :=
    absurd (by rw [State.memRead, hconfig, hmem]) hne
  cases e with
  | powerOn p seed => exact .inl ⟨p, seed, rfl⟩
  | restore b => exact .inr (.inl ⟨b, rfl⟩)
  | select asserted => rw [handle, select_eq] at h; cases h; exact kept rfl
  | snapshot => rw [handle, snapshot_eq] at h; cases h; exact kept rfl
  | setBusWidth l =>
    obtain ⟨new, -, rfl⟩ := setBusWidth_next h
    exact kept (by dsimp only; rw [withLines_eq]; rfl)
  | transfer tx w =>
    cases (transferred h).storageStep with
    | kept hmem => exact kept hmem
    | programmed hwel hseq v hmem =>
      refine .inr (.inr ⟨hwel, tx, w, rfl, .inl ⟨hseq, ?_⟩⟩)
      obtain ⟨-, -, -, -, -, -, ⟨hw, -⟩, -⟩ := hinv
      by_contra ha
      refine hne ?_
      rw [State.memRead, hconfig, hmem]
      exact (Memory.read_write _ _ _ _ hw).trans (if_neg ha)
    | bulkErased hwel hseq hop hbulk =>
      refine .inr (.inr ⟨hwel, tx, w, rfl, .inr (.inl ⟨hseq, ?_⟩)⟩)
      rw [show opOfByte s.config (BitVec.ofNat 8 tx) = _ from hop]
      simpa using hbulk
    | erased hwel hseq hlen hop herase =>
      refine .inr (.inr ⟨hwel, tx, w, rfl, .inr (.inr ⟨hseq, hlen, ?_⟩)⟩)
      rw [show opOfByte s.config s.dev.cmd = _ from hop]
      exact List.mem_map_of_mem (f := some) herase

end Sys2Proof.Machine
end

section
/-! PROOF. The commands one by one (41_latch_commands.md to 46_erase_commands.md): the whole next state of each, and the registers
that a reset derives (70_reset_and_hazards.md, R313). -/

namespace Sys2Proof.Machine

/-! ### Latch commands (R150 to R155, R312) -/

/-- Settles O20. -/
theorem latchCommandsWriteTheirLatches : Obligations.LatchCommandsWriteTheirLatches :=
  fun _ => ⟨rfl, rfl, rfl, rfl, rfl⟩

/-- RESET_MEMORY depends on the reset-enable latch alone (R153). -/
theorem exec_resetMemory_honored {s : State} (h : s.dev.rstEn = true) : exec .resetMemory s = .next s.resetRegisters :=
  congrArg _ (if_pos h)

theorem exec_resetMemory_ignored {s : State} (h : s.dev.rstEn = false) : exec .resetMemory s = .next (s.setSeq .idle) :=
  congrArg _ (if_neg (by simp [h]))

/-- On a part without a non-volatile configuration a reset clears the registers (R312). -/
theorem derivedAtReset_of_ne {p : Part} (c : Config) (nv : BitVec 16) (h : p.variant ≠ .nvcfg) :
    derivedAtReset c p nv = { vcfg := 0x00#8, evcfg := 0x00#8, a4b := false, ear := 0x00#8 } := by
  cases hv : p.variant with
  | nvcfg => exact absurd hv h
  | generic | modeByte => simp [derivedAtReset, hv]

theorem derivedAtReset_of_nvcfg {p : Part} (c : Config) (nv : BitVec 16) (h : p.variant = .nvcfg) :
    derivedAtReset c p nv = c.derived p.cap nv := by
  simp [derivedAtReset, h]

/-- Settles O21. -/
theorem resetMemoryResetsTheRegisters : Obligations.ResetMemoryResetsTheRegisters := by
  intro s
  refine ⟨exec_resetMemory_ignored, fun hr hv => ?_, fun hr hv => ?_⟩ <;>
    rw [exec_resetMemory_honored hr, State.resetRegisters]
  · rw [derivedAtReset_of_ne _ _ hv]
    rfl
  · rw [derivedAtReset_of_nvcfg _ _ hv]
    rfl

/-! ### The derived registers (R313) -/

theorem bitByte_toNat (b : Bool) : (bitByte b).toNat = b.toNat := by cases b <;> rfl

/-- A byte built from bits, as a number: bit 0 first. -/
theorem byteOfBits_toNat (bs : List Bool) (h : bs.length ≤ 8) :
    (byteOfBits bs).toNat = bs.foldr (fun b n => b.toNat + 2 * n) 0 ∧ (byteOfBits bs).toNat < 2 ^ bs.length := by
  induction bs with
  | nil => exact ⟨rfl, by decide⟩
  | cons b bs ih =>
    rw [List.length_cons] at h
    obtain ⟨heq, hlt⟩ := ih (by omega)
    have hsmall : (byteOfBits bs).toNat < 2 ^ 7 := hlt.trans_le (Nat.pow_le_pow_right (by decide) (by omega))
    have hb : b.toNat < 2 := Bool.toNat_lt b
    have hcons : (byteOfBits (b :: bs)).toNat = b.toNat + 2 * (byteOfBits bs).toNat := by
      show ((byteOfBits bs <<< 1) ||| bitByte b).toNat = _
      rw [BitVec.toNat_or, BitVec.toNat_shiftLeft, bitByte_toNat, Nat.mod_eq_of_lt (by rw [Nat.shiftLeft_eq]; omega),
        ← Nat.shiftLeft_add_eq_or_of_lt (by omega), Nat.shiftLeft_eq]
      omega
    refine ⟨by rw [hcons, heq]; rfl, ?_⟩
    rw [hcons, List.length_cons, Nat.pow_succ]
    omega

/-- A byte built from eight bits, as a number. -/
theorem byteOfBits_eight (a b c d e f g h : Bool) :
    (byteOfBits [a, b, c, d, e, f, g, h]).toNat =
      a.toNat + 2 * b.toNat + 4 * c.toNat + 8 * d.toNat + 16 * e.toNat + 32 * f.toNat + 64 * g.toNat + 128 * h.toNat := by
  rw [(byteOfBits_toNat _ (by simp)).1]
  simp only [List.foldr_cons, List.foldr_nil]
  omega

/-- A copied bit, as a number (R313). -/
theorem copy_value_toNat (nv : BitVec 16) (i : Nat) : ((BitSource.copy i).value nv).toNat = nv.toNat / 2 ^ i % 2 :=
  Nat.toNat_testBit nv.toNat i

theorem negated_value_iff (nv : BitVec 16) (i : Nat) : (BitSource.negated i).value nv = true ↔ nv.toNat / 2 ^ i % 2 = 0 := by
  have h := copy_value_toNat nv i
  simp only [BitSource.value] at h ⊢
  rw [← h]
  cases nv.getLsbD i <;> simp

/-- Three bits that are all 1, as a number (R313). -/
theorem allOnes_value_toNat (nv : BitVec 16) :
    ((BitSource.allOnes 9 11).value nv).toNat = if nv.toNat / 2 ^ 9 % 8 = 7 then 1 else 0 := by
  have h9 := copy_value_toNat nv 9
  have h10 := copy_value_toNat nv 10
  have h11 := copy_value_toNat nv 11
  have hall : (BitSource.allOnes 9 11).value nv =
      ((BitSource.copy 9).value nv && ((BitSource.copy 10).value nv && (BitSource.copy 11).value nv)) := by
    simp [BitSource.value, List.range_succ]
  have hdigits : nv.toNat / 2 ^ 9 % 8 =
      nv.toNat / 2 ^ 9 % 2 + 2 * (nv.toNat / 2 ^ 10 % 2) + 4 * (nv.toNat / 2 ^ 11 % 2) := by
    norm_num only
    omega
  rw [hall, hdigits, ← h9, ← h10, ← h11]
  cases (BitSource.copy 9).value nv <;> cases (BitSource.copy 10).value nv <;> cases (BitSource.copy 11).value nv <;> rfl

/-- Settles O22. -/
theorem derivedRegistersFollowTheTable : Obligations.DerivedRegistersFollowTheTable := by
  intro cap nv r
  have hnv := nv.isLt
  have hvcfg : r.vcfg.toNat =
      3 + 8 * (if nv.toNat / 2 ^ 9 % 8 = 7 then 1 else 0) + 16 * (nv.toNat / 2 ^ 12 % 2) + 32 * (nv.toNat / 2 ^ 13 % 2) +
        64 * (nv.toNat / 2 ^ 14 % 2) + 128 * (nv.toNat / 2 ^ 15 % 2) := by
    rw [← allOnes_value_toNat]
    simp only [← copy_value_toNat]
    exact (byteOfBits_eight _ _ _ _ _ _ _ _).trans (by simp [BitSource.value])
  have hevcfg : r.evcfg.toNat = 31 + 64 * (nv.toNat / 2 ^ 2 % 2) + 128 * (nv.toNat / 2 ^ 3 % 2) := by
    simp only [← copy_value_toNat]
    exact (byteOfBits_eight _ _ _ _ _ _ _ _).trans (by simp [BitSource.value])
  have ha4b : r.a4b = true ↔ nv.toNat / 2 ^ 0 % 2 = 0 := negated_value_iff nv 0
  have hear : r.ear.toNat = if nv.toNat / 2 % 2 = 0 ∧ 2 ^ 24 ≤ cap then (cap / 2 ^ 24 - 1) % 256 else 0 := by
    have htop : (BitSource.negated 1).value nv = true ↔ nv.toNat / 2 % 2 = 0 := negated_value_iff nv 1
    show (if (BitSource.negated 1).value nv then (if cap < 2 ^ 24 then 0x00#8 else BitVec.ofNat 8 (cap / 2 ^ 24 - 1))
      else 0x00#8).toNat = _
    by_cases ht : nv.toNat / 2 % 2 = 0
    · by_cases hcap : cap < 2 ^ 24
      · rw [if_pos (htop.mpr ht), if_pos hcap, if_neg (fun h => Nat.not_le.mpr hcap h.2)]
        rfl
      · rw [if_pos (htop.mpr ht), if_neg hcap, if_pos ⟨ht, Nat.not_lt.mp hcap⟩]
        rfl
    · rw [if_neg (fun h => ht (htop.mp h)), if_neg (fun h => ht h.1)]
      rfl
  have hone : (if nv.toNat / 2 ^ 9 % 8 = 7 then 1 else 0) ≤ 1 := by split <;> decide
  generalize (if nv.toNat / 2 ^ 9 % 8 = 7 then 1 else 0) = ones at hvcfg hone ⊢
  norm_num only [Nat.div_one] at hvcfg hevcfg hnv ha4b ⊢
  exact ⟨by omega, by omega, by omega, by omega, by omega, by omega, by omega, by omega, ha4b, hear⟩

/-! ### Register reads (R160 to R168) -/

/-- The bytes of a field, as the number shifted down. -/
theorem extractLsb'_eq_ofNat {n : Nat} (v : BitVec n) (k : Nat) :
    v.extractLsb' k 8 = BitVec.ofNat 8 (v.toNat / 2 ^ k) := by
  apply BitVec.eq_of_toNat_eq
  rw [BitVec.extractLsb'_toNat, BitVec.toNat_ofNat, Nat.shiftRight_eq_div_pow]

theorem Device.sr_eq (d : Device) : d.sr = if d.wel then 0x02#8 else 0x00#8 := by
  cases h : d.wel <;> simp [Device.sr, bitByte, h]

theorem Device.fsr_eq (d : Device) : d.fsr = if d.a4b then 0x81#8 else 0x80#8 := by
  cases h : d.a4b <;> simp [Device.fsr, bitByte, h]

/-- Settles O27. -/
theorem statusReadsLoadTheStatus : Obligations.StatusReadsLoadTheStatus := by
  intro s
  rw [← Device.sr_eq, ← Device.fsr_eq]
  exact ⟨rfl, rfl⟩

/-- Settles O28. -/
theorem registerReadsLoadTheRegister : Obligations.RegisterReadsLoadTheRegister := by
  intro s
  refine ⟨fun i hi => ?_, ?_, rfl, rfl, rfl⟩
  · fin_cases hi <;> rfl
  · have hlo := extractLsb'_eq_ofNat s.dev.nvcfg 0
    have hhi := extractLsb'_eq_ofNat s.dev.nvcfg 8
    rw [Nat.pow_zero, Nat.div_one] at hlo
    show Host.Outcome.next (s.loadResponse [_, _] _) = _
    rw [hlo, hhi]
    rfl

/-- Settles O29. -/
theorem jedecReadLoadsTheIdentification : Obligations.JedecReadLoadsTheIdentification := by
  intro s
  show Host.Outcome.next (s.loadResponse (jedecBytes s.part) false) = _
  simp only [jedecBytes, extractLsb'_eq_ofNat, Nat.pow_zero, Nat.div_one, Nat.reducePow]
  rfl

/-! ### Register writes (R175 to R181) -/

/-- Settles O30. -/
theorem statusWriteClearsWriteEnable : Obligations.StatusWriteClearsWriteEnable :=
  fun _ _ => rfl

/-- Settles O31, by the two values of the write-enable latch. -/
theorem configurationWritesNeedWriteEnable : Obligations.ConfigurationWritesNeedWriteEnable := by
  intro s b lo hi
  have hword : hi ++ lo = BitVec.ofNat 16 (lo.toNat + 256 * hi.toNat) := by
    apply BitVec.eq_of_toNat_eq
    have hlo := lo.isLt
    have hhi := hi.isLt
    rw [BitVec.toNat_ofNat, Nat.mod_eq_of_lt (by omega)]
    exact (le2_toNat lo hi).trans (by omega)
  have hcases : ∀ f : State → State, s.configWrite f = if s.dev.wel then (f s).setSeq .idle else s.setSeq .idle := by
    intro f
    rw [State.configWrite_eq]
    split <;> rfl
  rw [← hword]
  refine ⟨rfl, ?_, ?_, ?_, fun i hi => ?_⟩
  · exact congrArg _ ((hcases (·.setNvcfg (hi ++ lo))).trans (by cases s.dev.wel <;> rfl))
  · exact congrArg _ ((hcases (·.setVcfg b)).trans (by cases s.dev.wel <;> rfl))
  · exact congrArg _ ((hcases (·.setEvcfg b)).trans (by cases s.dev.wel <;> rfl))
  · fin_cases hi <;> exact congrArg _ ((hcases (·.setEar b)).trans (by cases s.dev.wel <;> rfl))

/-! ### Reads (R190 to R201) -/

/-- The state that a read leaves: the cursor set, and READ entered at once or after the requirement (R134). -/
theorem State.readCommand_eq_ite (s : State) (op : Op) (a : Addr) (cur : Nat) (h : s.target a * 8 = cur) :
    s.readCommand op a =
      if s.config.dummyUnits op s.dev.vcfg s.part = 0 then { s with dev := { s.dev with cur := cur, seq := .read } }
      else { s with dev := { s.dev with
        cur := cur, seq := .dummyWait, dummyCount := 0, dummyTarget := s.config.dummyUnits op s.dev.vcfg s.part } } := by
  rw [State.readCommand_eq, h]
  split <;> rfl

/-- The requirement depends on the dummy table of a configuration alone (R111). -/
theorem dummyUnits_of_specTable {c : Config} (h : c.dummyCycles = Config.spec.dummyCycles) (op : Op) (v : Byte) (p : Part) :
    c.dummyUnits op v p = Config.spec.dummyUnits op v p := by
  rw [Config.dummyUnits, h, Config.dummyUnits]

/-- Settles O33. -/
theorem plainReadsEnterRead : Obligations.PlainReadsEnterRead := by
  intro s v3 v4 cap after
  refine ⟨congrArg _ (s.readCommand_eq_ite _ _ _ rfl), fun i hi => ?_, fun hspec op hop cur => ?_⟩
  · fin_cases hi <;> exact congrArg _ (s.readCommand_eq_ite _ _ _ (by rw [State.target_a4]))
  · refine if_pos ?_
    rw [dummyUnits_of_specTable hspec, spec_dummyUnits]
    fin_cases hop <;> rfl

/-- Settles O34. -/
theorem outputReadsWaitForTheDummyUnits : Obligations.OutputReadsWaitForTheDummyUnits := by
  intro s v3 v4 cap after
  refine ⟨fun i hi => ?_, fun i hi => ?_, fun hspec op hop => ?_⟩
  · fin_cases hi <;> exact congrArg _ (s.readCommand_eq_ite _ _ _ rfl)
  · fin_cases hi <;> exact congrArg _ (s.readCommand_eq_ite _ _ _ (by rw [State.target_a4]))
  · rw [dummyUnits_of_specTable hspec, spec_dummyUnits, if_pos hop]

/-- Settles O35. -/
theorem ioReadsEnterRead : Obligations.IoReadsEnterRead := by
  intro s v3 v4 mode cap after
  refine ⟨fun i hi => ?_, fun i hi => ?_, fun hspec op hop cur => ?_⟩
  · fin_cases hi <;> exact congrArg _ (s.readCommand_eq_ite _ _ _ rfl)
  · fin_cases hi <;> exact congrArg _ (s.readCommand_eq_ite _ _ _ (by rw [State.target_a4]))
  · refine if_pos ?_
    rw [dummyUnits_of_specTable hspec, spec_dummyUnits]
    fin_cases hop <;> rfl

/-! ### Program commands (R210 to R215) -/

/-- Settles O40. -/
theorem programCommandsEnterPageProgram : Obligations.ProgramCommandsEnterPageProgram := by
  intro s v3 v4 cap
  refine ⟨fun i hi => ?_, fun i hi => ?_⟩
  · fin_cases hi <;> rfl
  · rw [← State.target_a4]
    fin_cases hi <;> rfl

/-- Settles O41. -/
theorem aaiProgramBeginsOrContinues : Obligations.AaiProgramBeginsOrContinues :=
  fun _ _ => ⟨rfl, rfl⟩

/-! ### Erases (R225 to R233) -/

/-- An address erase is the erase of its form, at its target. -/
theorem exec_of_eraseForm {s : State} {i : Instr} {target len : Nat} {advertised : Bool}
    (h : eraseForm s i = some (target, len, advertised)) :
    ∃ c, s.part.advertises c = advertised ∧ exec i s = .next ((s.setCur (target * 8)).eraseAt target len c) := by
  cases i with
  | erase4k a | erase4_4k v =>
    cases h
    exact ⟨.er4k, rfl, congrArg _ (s.eraseCommand_eq _ _ _)⟩
  | erase32k a | erase4_32k v =>
    cases h
    exact ⟨.er32k, rfl, congrArg _ (s.eraseCommand_eq _ _ _)⟩
  | eraseSector a | erase4Sector v =>
    cases h
    exact ⟨.always, rfl, congrArg _ (s.eraseCommand_eq _ _ _)⟩
  | _ => cases h

/-- The record of a range that has just been erased carries the erased value alone. -/
theorem sinkRecord_erase_read (e : Byte) (m : Memory) (lo hi a : Nat) :
    (sinkRecord (m.erase lo hi) lo (hi - lo)).cells.read e a = e := by
  show ((m.erase lo hi).slice lo (lo + (hi - lo))).read e a = e
  rw [Memory.read_slice, Memory.read_erase]
  split
  · rw [if_pos (by omega)]
  · rfl

/-- Settles O45. -/
theorem addressErasesSetTheRange : Obligations.AddressErasesSetTheRange := by
  intro s i target len advertised hform hwel base stop
  obtain ⟨c, hc, hexec⟩ := exec_of_eraseForm hform
  rw [State.eraseAt_enabled (s.setCur (target * 8)) _ _ _ hwel] at hexec
  refine ⟨_, sinkRecord (s.dev.mem.erase base stop) base (stop - base), hexec, fun a => ?_, rfl, rfl, rfl, rfl, ?_, rfl, rfl,
    sinkRecord_erase_read _ _ _ _⟩
  · exact Memory.read_erase _ _ _ _
  · rw [← hc]
    rfl

/-- Settles O46. -/
theorem addressErasesNeedWriteEnable : Obligations.AddressErasesNeedWriteEnable := by
  intro s i target len advertised hform hwel
  obtain ⟨c, -, hexec⟩ := exec_of_eraseForm hform
  rw [hexec, State.eraseAt_blocked (s.setCur (target * 8)) _ _ _ hwel]
  rfl

/-- An erase of the whole storage leaves no cell. -/
theorem Memory.erase_all {m : Memory} {cap : Nat} (h : ∀ c ∈ m, c.1 < cap) : m.erase 0 cap = [] :=
  List.filter_eq_nil_iff.mpr (fun c hc => by simp [h c hc])

/-- Settles O47. -/
theorem bulkErasesSetEveryByte : Obligations.BulkErasesSetEveryByte := by
  intro s i hi hstorage
  have hexec : exec i s = .next (s.eraseAt 0 s.part.cap .always) := by
    rcases hi with rfl | rfl <;> rfl
  have hrange : eraseRange s.part 0 s.part.cap = (0, s.part.cap) := by simp [eraseRange]
  refine ⟨fun hwel => ?_, fun hwel => ?_⟩
  · refine ⟨_, ?_, fun _ => rfl, rfl, rfl, sinkRecord_erase_read _ s.dev.mem 0 s.part.cap⟩
    rw [hexec, State.eraseAt_enabled _ _ _ _ hwel, hrange, Memory.erase_all hstorage.2]
    simp [Part.advertises]
  · rw [hexec, State.eraseAt_blocked _ _ _ _ hwel]

end Sys2Proof.Machine
end

section
/-! PROOF. The data transfer engine (47_data_transfer_engine.md): the bits of a unit, one unit in each state of the engine, and
runs of units. -/

namespace Sys2Proof.Machine

/-! ### The bits of a unit (R74) -/

theorem unitMask_getLsbD (w k : Nat) : (unitMask w).getLsbD k = (decide (k < 8) && decide (k < w)) := by
  rw [unitMask, BitVec.getLsbD_ofNat, Nat.testBit_two_pow_sub_one]

/-- A unit, as a number. -/
theorem unitAt_toNat (v : Byte) (o w : Nat) (hw : w ≤ 8) : (unitAt v o w).toNat = v.toNat / 2 ^ (8 - o - w) % 2 ^ w := by
  have hlt : 2 ^ w - 1 < 2 ^ 8 :=
    (Nat.sub_lt (Nat.two_pow_pos w) (by decide)).trans_le (Nat.pow_le_pow_right (by decide) hw)
  rw [unitAt, unitMask, BitVec.toNat_and, BitVec.toNat_ushiftRight, BitVec.toNat_ofNat, Nat.mod_eq_of_lt hlt,
    Nat.and_two_pow_sub_one_eq_mod, Nat.shiftRight_eq_div_pow]

/-- A unit of eight bits is the byte. -/
theorem unitAt_byte (v : Byte) : unitAt v 0 8 = v := by
  apply BitVec.eq_of_toNat_eq
  rw [unitAt_toNat _ _ _ (Nat.le_refl 8)]
  simpa using Nat.mod_eq_of_lt v.isLt

/-- The bits of a unit, the least significant first. -/
theorem unitAt_getLsbD (v : Byte) (o w k : Nat) (hw : w ≤ 8) :
    (unitAt v o w).getLsbD k = (v.getLsbD (8 - o - w + k) && decide (k < w)) := by
  rw [unitAt, BitVec.getLsbD_and, BitVec.getLsbD_ushiftRight, unitMask_getLsbD]
  by_cases hk : k < w
  · simp [hk, show k < 8 by omega]
  · simp [hk]

/-- The bits of a byte after a unit has been put into it: those of the unit inside it, the old ones outside. -/
theorem withUnit_getLsbD (v u : Byte) (o w k : Nat) (ho : o + w ≤ 8) (hk : k < 8) (hu : ∀ j, w ≤ j → u.getLsbD j = false) :
    (withUnit v o w u).getLsbD k =
      if 8 - o - w ≤ k ∧ k < 8 - o then u.getLsbD (k - (8 - o - w)) else v.getLsbD k := by
  rw [withUnit, BitVec.getLsbD_or, BitVec.getLsbD_and, BitVec.getLsbD_not, BitVec.getLsbD_shiftLeft,
    BitVec.getLsbD_shiftLeft, unitMask_getLsbD]
  by_cases hlow : k < 8 - o - w
  · simp [hk, hlow, show ¬ (8 - o - w ≤ k) by omega]
  · by_cases hin : k < 8 - o
    · have hoff : k - (8 - o - w) < w := by omega
      simp [hk, hin, hlow, hoff, show k - (8 - o - w) < 8 by omega, show 8 - o - w ≤ k by omega]
    · have hoff : ¬ k - (8 - o - w) < w := by omega
      simp [hk, hin, hlow, hoff, hu _ (Nat.not_lt.mp hoff)]

/-- A number below `2 ^ w` has no bit from `w` on. -/
theorem getLsbD_of_toNat_lt {u : Byte} {w : Nat} (h : u.toNat < 2 ^ w) (j : Nat) (hj : w ≤ j) : u.getLsbD j = false :=
  Nat.testBit_lt_two_pow (h.trans_le (Nat.pow_le_pow_right (by decide) hj))

/-- Two aligned units of one width are the same or disjoint (R75). -/
theorem aligned_units_disjoint {o o' w : Nat} (hw : w = 1 ∨ w = 2 ∨ w = 4 ∨ w = 8) (ho : o % w = 0) (ho' : o' % w = 0)
    (hne : o' ≠ o) : o' + w ≤ o ∨ o + w ≤ o' := by
  rcases hw with rfl | rfl | rfl | rfl <;> omega

/-- Settles O44, bit by bit. -/
theorem unitWrittenIsTheUnitRead : Obligations.UnitWrittenIsTheUnitRead := by
  intro v u o o' w hw ho ho' halign halign' hu
  have hin : ∀ x, x < 8 → x % w = 0 → x + w ≤ 8 := by
    intro x hx hxa
    have := unit_inside_byte x w hw hxa
    omega
  have hfit := hin o ho halign
  have hfit' := hin o' ho' halign'
  have hu := getLsbD_of_toNat_lt hu
  apply BitVec.eq_of_getLsbD_eq
  intro k hk
  rw [unitAt_getLsbD _ _ _ _ (by omega)]
  by_cases hkw : k < w
  · rw [withUnit_getLsbD _ _ _ _ _ hfit (by omega) hu]
    by_cases heq : o' = o
    · subst heq
      rw [if_pos (by omega), if_pos rfl, Nat.add_sub_cancel_left]
      simp [hkw]
    · have hdisjoint := aligned_units_disjoint hw halign halign' heq
      rw [if_neg (by omega), if_neg heq, unitAt_getLsbD _ _ _ _ (by omega)]
  · by_cases heq : o' = o
    · simp [heq, hkw, hu k (by omega)]
    · simp [heq, hkw, unitAt_getLsbD _ _ _ _ (show w ≤ 8 by omega)]

/-! ### One unit (R130) -/

section
variable {s : State} {tx w : Nat} {rest : List Event}

theorem ValidUnit.width_le (h : ValidUnit tx w) : w ≤ 8 := by
  obtain ⟨hw, -⟩ := h
  omega

theorem step_read (hseq : s.dev.seq = .read) (hin : s.Waiting (.transfer tx w) rest) (hv : ValidUnit tx w)
    (halign : s.dev.cur % w = 0) : step s = readUnit w (s.accept rest) := by
  rw [step_waiting hin, handle, transfer, if_pos hv]
  simp [hseq, halign]

theorem step_program (hseq : s.dev.seq = .pageProgram) (hin : s.Waiting (.transfer tx w) rest) (hv : ValidUnit tx w)
    (halign : s.dev.cur % w = 0) : step s = programUnit (BitVec.ofNat 8 tx) w (s.accept rest) := by
  rw [step_waiting hin, handle, transfer, if_pos hv]
  simp [hseq, halign]

theorem step_dummy (hseq : s.dev.seq = .dummyWait) (hin : s.Waiting (.transfer tx w) rest) (hv : ValidUnit tx w) :
    step s = dummyUnit (s.accept rest) := by
  rw [step_waiting hin, handle, transfer, if_pos hv]
  simp [hseq]

theorem step_streaming (hseq : s.dev.seq = .streamingResponse) (hin : s.Waiting (.transfer tx 8) rest) (htx : tx < 256) :
    step s = streamUnit (s.accept rest) := by
  rw [step_waiting hin, handle, transfer, if_pos ⟨by decide, htx⟩]
  simp [hseq]

end

/-- `ReadUnit(w)` (R246) inside the storage. -/
theorem readUnit_eq {s : State} (w : Nat) (h : s.dev.cur / 8 < s.part.cap) :
    readUnit w s = .next { s with
      out := { s.out with rx := some (unitAt (s.memRead (s.dev.cur / 8)) (s.dev.cur % 8) w) }
      dev := { s.dev with cur := (s.dev.cur + w) % s.part.capBits } } := by
  obtain ⟨t, ht⟩ := readUnit_completes w h
  rw [ht, (readUnit_next ht).2]

/-- Settles O36. -/
theorem readUnitSendsTheBitsAtTheCursor : Obligations.ReadUnitSendsTheBitsAtTheCursor := by
  intro s tx w rest hseq hin hv halign hcur
  refine ⟨unitAt (s.memRead (s.dev.cur / 8)) (s.dev.cur % 8) w, unitAt_toNat _ _ _ hv.width_le, ?_⟩
  exact (step_read hseq hin hv halign).trans (readUnit_eq (s := s.accept rest) w (cursor_byte_lt hcur))

/-- Settles O43. -/
theorem programUnitWithoutWriteEnableOnlyWarns : Obligations.ProgramUnitWithoutWriteEnableOnlyWarns := by
  intro s tx w rest hseq hin hv halign hcur hwel
  have hinside : ¬ s.part.cap ≤ s.dev.cur / 8 := Nat.not_le.mpr (cursor_byte_lt hcur)
  rw [step_program hseq hin hv halign]
  exact (if_neg hinside).trans (if_neg (by simp [hwel]))

/-- Settles O39: the capacity is a whole number of units. -/
theorem dataUnitsOfOneWidthStayAligned : Obligations.DataUnitsOfOneWidthStayAligned := by
  intro s t tx w rest hseq hin h
  rw [step_waiting hin] at h
  obtain ⟨⟨hw, -⟩, hcase⟩ := transfer_next h
  have hdvd : w ∣ s.part.capBits := by
    refine Dvd.dvd.mul_left ?_ _
    rcases hw with rfl | rfl | rfl | rfl <;> decide
  have haligned : s.dev.cur % w = 0 → (s.dev.cur + w) % s.part.capBits % w = 0 := by
    intro halign
    rw [Nat.mod_mod_of_dvd _ hdvd, Nat.add_mod_right, halign]
  simp only [State.accept_dev] at hcase
  rcases hcase with ⟨hidle, -⟩ | ⟨hcollect, -⟩ | ⟨hstream, -⟩ | ⟨-, halign, hrun⟩ | ⟨-, halign, hrun⟩ | ⟨hwait, -⟩
  · exact absurd (hidle ▸ hseq) (by decide)
  · exact absurd (hcollect ▸ hseq) (by decide)
  · exact absurd (hstream ▸ hseq) (by decide)
  · obtain ⟨-, -, -, -, hdev, -⟩ := programUnit_next hrun
    rw [hdev]
    exact ⟨rfl, haligned halign⟩
  · obtain ⟨-, rfl⟩ := readUnit_next hrun
    exact ⟨rfl, haligned halign⟩
  · exact absurd (hwait ▸ hseq) (by decide)

/-! ### A program unit under write-enable (R245) -/

/-- The bits of the byte that a program unit leaves, the most significant first. -/
theorem programmed_getMsbD (old : Byte) (tx o w : Nat) (overwrite : Bool) (ho : o + w ≤ 8) (htx : tx < 2 ^ w) (k : Nat)
    (hk : k < 8) :
    (withUnit old o w (if overwrite then BitVec.ofNat 8 tx else unitAt old o w &&& BitVec.ofNat 8 tx)).getMsbD k =
      if o ≤ k ∧ k < o + w then tx.testBit (o + w - 1 - k) && (overwrite || old.getMsbD k) else old.getMsbD k := by
  have hnone : ∀ j, w ≤ j → tx.testBit j = false := fun j hj =>
    Nat.testBit_lt_two_pow (htx.trans_le (Nat.pow_le_pow_right (by decide) hj))
  have hbit : ∀ j, (BitVec.ofNat 8 tx).getLsbD j = (decide (j < 8) && tx.testBit j) := fun j => BitVec.getLsbD_ofNat _ _ _
  have hmsb : ∀ v : Byte, v.getMsbD k = v.getLsbD (7 - k) := fun v => by simp [BitVec.getMsbD, hk]
  have hunit : ∀ j, w ≤ j →
      (if overwrite then BitVec.ofNat 8 tx else unitAt old o w &&& BitVec.ofNat 8 tx).getLsbD j = false := by
    intro j hj
    cases overwrite <;> simp [hbit, hnone j hj]
  rw [hmsb, hmsb, withUnit_getLsbD _ _ _ _ _ ho (by omega) hunit]
  by_cases hin : o ≤ k ∧ k < o + w
  · have hpos : 7 - k - (8 - o - w) = o + w - 1 - k := by omega
    have hback : 8 - o - w + (o + w - 1 - k) = 7 - k := by omega
    rw [if_pos (by omega), if_pos hin, hpos]
    have hlt : o + w - 1 - k < w := by omega
    have hlt8 : o + w - 1 - k < 8 := by omega
    cases overwrite
    · rw [if_neg Bool.false_ne_true, BitVec.getLsbD_and, unitAt_getLsbD _ _ _ _ (by omega), hbit, hback]
      simp [hlt, hlt8, Bool.and_comm]
    · rw [if_pos rfl, hbit]
      simp [hlt8]
  · rw [if_neg (by omega), if_neg hin]

/-- A 1 of a unit lands on a 0 (R284) exactly when some bit of it does. -/
theorem lands_iff (old : Byte) (tx o w : Nat) (ho : o + w ≤ 8) :
    ~~~unitAt old o w &&& BitVec.ofNat 8 tx &&& unitMask w ≠ 0#8 ↔
      ∃ k < w, tx.testBit k = true ∧ old.getMsbD (o + w - 1 - k) = false := by
  have hbit : ∀ k < w, (~~~unitAt old o w &&& BitVec.ofNat 8 tx &&& unitMask w).getLsbD k =
      (!old.getMsbD (o + w - 1 - k) && tx.testBit k) := by
    intro k hk
    have hmsb : old.getMsbD (o + w - 1 - k) = old.getLsbD (8 - o - w + k) := by
      rw [BitVec.getMsbD, decide_eq_true (show o + w - 1 - k < 8 by omega), Bool.true_and]
      congr 1
      omega
    rw [BitVec.getLsbD_and, BitVec.getLsbD_and, BitVec.getLsbD_not, unitMask_getLsbD,
      unitAt_getLsbD _ _ _ _ (show w ≤ 8 by omega), BitVec.getLsbD_ofNat, hmsb]
    simp [hk, show k < 8 by omega]
  constructor
  · intro hne
    by_contra hnone
    refine hne (BitVec.eq_of_getLsbD_eq (fun k hk8 => ?_))
    by_cases hk : k < w
    · rw [hbit k hk]
      cases htx : tx.testBit k
      · simp
      · cases hold : old.getMsbD (o + w - 1 - k)
        · exact absurd ⟨k, hk, htx, hold⟩ hnone
        · simp
    · rw [BitVec.getLsbD_and, unitMask_getLsbD]
      simp [hk]
  · rintro ⟨k, hk, htx, hold⟩ hzero
    have h := hbit k hk
    rw [hzero, htx, hold] at h
    simp at h

/-- Settles O42: the bits by `programmed_getMsbD`, the warning by `lands_iff`. -/
theorem programUnitCombinesTheBits : Obligations.ProgramUnitCombinesTheBits := by
  intro s tx w rest hinv hseq hin hv halign hwel a o old
  obtain ⟨hw, htx⟩ := id hv
  have ho : o + w ≤ 8 := unit_inside_byte _ _ hw halign
  obtain ⟨-, -, -, -, -, -, ⟨hmem, -⟩, -⟩ := id hinv
  obtain ⟨t, ht⟩ := programUnit_completes (s := s.accept rest) (BitVec.ofNat 8 tx) w hinv.cursor_byte_lt
  obtain ⟨-, hconfig, hpart, hinputs, hdev, hout⟩ := programUnit_next ht
  simp only [State.accept_dev, hwel, if_true] at hdev hout
  have hread : ∀ b, t.memRead b = if b = a then
      withUnit old o w (if s.part.overwrite then BitVec.ofNat 8 tx else unitAt old o w &&& BitVec.ofNat 8 tx)
      else s.memRead b := by
    intro b
    rw [State.memRead_eq, hconfig, hdev]
    exact Memory.read_write _ _ _ _ hmem
  refine ⟨t, (step_program hseq hin hv halign).trans ht, hconfig, hpart, hinputs, ?_, fun b hb => ?_, fun k hk => ?_, ?_,
    fun hlands => ?_, fun hnone => ?_⟩
  · rw [hdev]
    simp only [hwel]
    rfl
  · rw [hread, if_neg hb]
  · rw [hread, if_pos rfl]
    exact programmed_getMsbD old tx o w s.part.overwrite ho htx k hk
  · rw [hout]
    rfl
  · rw [hout]
    exact if_pos ((lands_iff old tx o w ho).mpr hlands)
  · rw [hout]
    refine if_neg (fun hne => ?_)
    obtain ⟨k, hk, hset, hclear⟩ := (lands_iff old tx o w ho).mp hne
    simp [hnone k hk hset] at hclear

end Sys2Proof.Machine
end

section
/-! PROOF. Runs of units (R246 to R248), and the events that are not transfers (R249, R250, R310, R46). -/

namespace Sys2Proof.Machine

/-! ### Runs of units -/

/-- One byte unit in READ sends the byte at the cursor (R246). -/
theorem step_read_byte {s : State} {u : Nat} {rest : List Event} (hinv : s.Inv) (hseq : s.dev.seq = .read)
    (halign : s.dev.cur % 8 = 0) (hin : s.Waiting (.transfer u 8) rest) (hu : u < 256) :
    step s = .next { s with
      inputs := rest
      out := { Output.empty with rx := some (s.memRead (s.dev.cur / 8)) }
      dev := { s.dev with cur := (s.dev.cur + 8) % s.part.capBits } } := by
  rw [step_read hseq hin ⟨by decide, hu⟩ halign, readUnit_eq (s := s.accept rest) 8 hinv.cursor_byte_lt,
    State.accept_dev, halign, unitAt_byte]
  rfl

/-- Settles O37, by induction on the units: each of them sends one byte and leaves the cursor at the next. -/
theorem readStreamsConsecutiveBytes : Obligations.ReadStreamsConsecutiveBytes := by
  intro u us
  induction us generalizing u with
  | nil =>
    intro s rest hinv hseq halign hbytes hin
    have hcell : (s.dev.cur / 8 + 0) % s.part.cap = s.dev.cur / 8 := Nat.mod_eq_of_lt hinv.cursor_byte_lt
    refine (run_one s).trans ((step_read_byte hinv hseq halign hin (hbytes u (by simp))).trans ?_)
    rw [List.length_nil, hcell]
    rfl
  | cons v vs ih =>
    intro s rest hinv hseq halign hbytes hin
    have hstep := step_read_byte hinv hseq halign hin (hbytes u (by simp))
    have hbyte : (s.dev.cur + 8) % s.part.capBits = (s.dev.cur / 8 + 1) % s.part.cap * 8 := by
      rw [Part.capBits, ← Nat.mul_mod_mul_right]
      congr 1
      omega
    have hsent : ((s.dev.cur + 8) % s.part.capBits / 8 + vs.length) % s.part.cap =
        (s.dev.cur / 8 + (vs.length + 1)) % s.part.cap := by
      rw [hbyte, Nat.mul_div_cancel _ (by decide), Nat.mod_add_mod]
      congr 1
      omega
    have hcursor : ((s.dev.cur + 8) % s.part.capBits + 8 * (vs.length + 1)) % s.part.capBits =
        (s.dev.cur + 8 * (vs.length + 1 + 1)) % s.part.capBits := by
      rw [Nat.mod_add_mod]
      congr 1
      omega
    have hrest := ih v _ rest (stepKeepsTheInvariant _ _ hinv hstep) hseq
      ((congrArg (· % 8) hbyte).trans (Nat.mul_mod_left _ _)) (fun x hx => hbytes x (List.mem_cons_of_mem _ hx)) rfl
    refine ((run_next _ hstep).trans hrest).trans ?_
    simp only [hsent, hcursor, List.length_cons]

/-- The unit that ends a dummy wait (R248). -/
theorem step_dummy_last {s : State} {tx w : Nat} {rest : List Event} (hseq : s.dev.seq = .dummyWait)
    (hin : s.Waiting (.transfer tx w) rest) (hv : ValidUnit tx w) (h : s.dev.dummyTarget ≤ s.dev.dummyCount + 1) :
    step s = .next { s with
      inputs := rest, out := Output.empty, dev := { s.dev with seq := .read, dummyCount := 0, dummyTarget := 0 } } := by
  rw [step_dummy hseq hin hv]
  exact if_pos h

/-- A unit that leaves a dummy wait (R248) unfinished. -/
theorem step_dummy_more {s : State} {tx w : Nat} {rest : List Event} (hseq : s.dev.seq = .dummyWait)
    (hin : s.Waiting (.transfer tx w) rest) (hv : ValidUnit tx w) (h : s.dev.dummyCount + 1 < s.dev.dummyTarget) :
    step s = .next { s with
      inputs := rest, out := Output.empty, dev := { s.dev with dummyCount := s.dev.dummyCount + 1 } } := by
  rw [step_dummy hseq hin hv]
  exact if_neg (Nat.not_le.mpr h)

/-- Settles O38, by induction on the units: each of them counts one, and the last one enters READ. -/
theorem dummyWaitEndsInRead : Obligations.DummyWaitEndsInRead := by
  intro us
  induction us with
  | nil =>
    intro s rest hinv hseq hunits hlength hin
    obtain ⟨-, -, -, -, ⟨hwait, -⟩, -⟩ := hinv
    obtain ⟨hlt, -⟩ := hwait hseq
    rw [List.length_nil] at hlength
    omega
  | cons u us ih =>
    intro s rest hinv hseq hunits hlength hin
    have hunit := hunits u (by simp)
    rw [List.length_cons] at hlength
    cases us with
    | nil =>
      rw [List.length_nil] at hlength
      exact (run_one s).trans (step_dummy_last hseq hin hunit (by omega))
    | cons v vs =>
      rw [List.length_cons] at hlength
      have hstep := step_dummy_more hseq hin hunit (by omega)
      exact (run_next _ hstep).trans (ih _ rest (stepKeepsTheInvariant _ _ hinv hstep) hseq
        (fun x hx => hunits x (List.mem_cons_of_mem _ hx)) (by simp only [List.length_cons]; omega) rfl)

/-- The response cursor after a byte: past the last byte of a response that ends nothing is left, else it is at the next byte, the
first one after the last (R247). -/
theorem afterStream_eq_ite {d : Device} (h : d.rpos < d.rbuf.length) :
    d.afterStream =
      if d.rcyclic = false ∧ d.rpos + 1 = d.rbuf.length then { d with rbuf := [], rpos := 0, seq := .idle }
      else { d with rpos := (d.rpos + 1) % d.rbuf.length } := by
  unfold Device.afterStream
  by_cases hlast : d.rpos + 1 = d.rbuf.length
  · rw [if_pos hlast]
    cases hc : d.rcyclic
    · rw [if_neg (by decide), if_pos ⟨rfl, hlast⟩]
    · rw [if_pos rfl, if_neg (fun hend => by simp at hend), hlast, Nat.mod_self]
  · rw [if_neg hlast, if_neg (fun hend => hlast hend.2), Nat.mod_eq_of_lt (by omega)]

/-- One byte of a response (R247). -/
theorem step_streaming_byte {s : State} {u : Nat} {rest : List Event} (hinv : s.Inv) (hseq : s.dev.seq = .streamingResponse)
    (hin : s.Waiting (.transfer u 8) rest) (hu : u < 256) :
    step s = .next { s with
      inputs := rest
      out := { Output.empty with rx := s.dev.rbuf[s.dev.rpos]? }
      dev := if s.dev.rcyclic = false ∧ s.dev.rpos + 1 = s.dev.rbuf.length
        then { s.dev with rbuf := [], rpos := 0, seq := .idle }
        else { s.dev with rpos := (s.dev.rpos + 1) % s.dev.rbuf.length } } := by
  obtain ⟨-, -, -, ⟨hresponse, -⟩, -⟩ := hinv
  obtain ⟨hlt, -⟩ := hresponse hseq
  obtain ⟨t, ht⟩ := streamUnit_completes (s := s.accept rest) hlt
  obtain ⟨v, hv, rfl⟩ := streamUnit_next ht
  rw [State.accept_dev] at hv
  rw [step_streaming hseq hin hu, ht, ← afterStream_eq_ite hlt, hv]
  rfl

/-- Settles O51, by induction on the units. -/
theorem responsesStreamInOrder : Obligations.ResponsesStreamInOrder := by
  intro u us
  induction us generalizing u with
  | nil =>
    intro s rest hinv hseq hmore hbytes hin
    obtain ⟨-, -, -, ⟨hresponse, -⟩, -⟩ := id hinv
    obtain ⟨hlt, -⟩ := hresponse hseq
    have hsent : (s.dev.rpos + 0) % s.dev.rbuf.length = s.dev.rpos := Nat.mod_eq_of_lt hlt
    refine (run_one s).trans ((step_streaming_byte hinv hseq hin (hbytes u (by simp))).trans ?_)
    rw [List.length_nil, hsent]
    rfl
  | cons v vs ih =>
    intro s rest hinv hseq hmore hbytes hin
    rw [List.length_cons] at hmore
    have hstep := step_streaming_byte hinv hseq hin (hbytes u (by simp))
    rw [if_neg (fun hend => by have := hmore hend.1; omega)] at hstep
    have hinside : s.dev.rcyclic = false → (s.dev.rpos + 1) % s.dev.rbuf.length = s.dev.rpos + 1 := fun hc =>
      Nat.mod_eq_of_lt (by have := hmore hc; omega)
    have hsent : ((s.dev.rpos + 1) % s.dev.rbuf.length + vs.length) % s.dev.rbuf.length =
        (s.dev.rpos + (vs.length + 1)) % s.dev.rbuf.length := by
      rw [Nat.mod_add_mod]
      congr 1
      omega
    have hpos : ((s.dev.rpos + 1) % s.dev.rbuf.length + vs.length + 1) % s.dev.rbuf.length =
        (s.dev.rpos + (vs.length + 1) + 1) % s.dev.rbuf.length := by
      rw [Nat.add_assoc, Nat.mod_add_mod]
      congr 1
      omega
    have hend : (s.dev.rcyclic = false ∧ (s.dev.rpos + 1) % s.dev.rbuf.length + vs.length + 1 = s.dev.rbuf.length) ↔
        (s.dev.rcyclic = false ∧ s.dev.rpos + (vs.length + 1) + 1 = s.dev.rbuf.length) :=
      and_congr_right (fun hc => by rw [hinside hc]; omega)
    have hbound : s.dev.rcyclic = false →
        (s.dev.rpos + 1) % s.dev.rbuf.length + vs.length < s.dev.rbuf.length := fun hc => by
      have := hmore hc
      rw [hinside hc]
      omega
    have hrest := ih v _ rest (stepKeepsTheInvariant _ _ hinv hstep) hseq hbound
      (fun x hx => hbytes x (List.mem_cons_of_mem _ hx)) rfl
    refine ((run_next _ hstep).trans hrest).trans ?_
    simp only [hsent, hpos, hend, List.length_cons]

/-! ### Chip select and bus width (R249, R250) -/

/-- Settles O52. -/
theorem selectResetsTheDecodeState : Obligations.SelectResetsTheDecodeState := by
  intro s asserted rest hin
  exact (step_waiting hin).trans (select_eq asserted (s.accept rest))

theorem ofNat?_toNat (l : Lines) : Lines.ofNat? l.toNat = some l := by cases l <;> rfl

/-- Settles O53. -/
theorem busWidthRescalesTheRemainingWait : Obligations.BusWidthRescalesTheRemainingWait := by
  intro s l rest hinv hin remaining
  obtain ⟨⟨-, -, -, -, hround, -⟩, -, -, -, ⟨hwait, -⟩, -⟩ := hinv
  refine ⟨s.config.dummyRound.divide remaining l.toNat, ?_, fun hs => ⟨rfl, ?_, fun hceiling => ?_⟩⟩
  · rw [step_waiting hin, handle, setBusWidth, ofNat?_toNat]
    rfl
  all_goals
    obtain ⟨hlt, -⟩ := hwait hs.1
    have hpos : 0 < remaining := Nat.mul_pos (by omega) (Lines.toNat_pos s.dev.lines)
  · exact one_le_divide _ _ _ hround (Lines.toNat_pos l) hpos
  · obtain ⟨-, hcover, hleast⟩ := divide_ceiling remaining l.toNat (Lines.toNat_pos l) hpos
    rw [hceiling]
    exact ⟨hcover, hleast⟩

/-! ### Power-on, snapshot (R310, R46) -/

/-- A `PowerOn` with a well-formed part (R310). -/
theorem step_powerOn {s : State} {p : Part} {seed : Option Memory} {rest : List Event} (hin : s.Waiting (.powerOn p seed) rest)
    (hp : p.Wf) : step s = .next (((s.accept rest).setPart p).setDev (attached s.config p seed)).resetRegisters := by
  rw [step_waiting hin]
  exact if_pos hp

/-- What a `PowerOn` leaves (R310, R312): the values of the reset but for the registers that it derives. -/
theorem powerOn_dev (s : State) (p : Part) (seed : Option Memory) (r : Derived)
    (hr : derivedAtReset s.config p s.config.nvcfgInit = r) :
    (((s.setPart p).setDev (attached s.config p seed)).resetRegisters).dev =
      { State.reset.dev with
        mem := (attached s.config p seed).mem, nvcfg := s.config.nvcfgInit
        vcfg := r.vcfg, evcfg := r.evcfg, a4b := r.a4b, ear := r.ear } := by
  subst hr
  rfl

/-- Settles O54. -/
theorem powerOnGivesTheResetValues : Obligations.PowerOnGivesTheResetValues := by
  intro s p seed rest hin hp r
  have hdev : ((((s.accept rest).setPart p).setDev (attached s.config p seed)).resetRegisters).dev.Wf s.config p :=
    powerOn_wf hp seed (s.accept rest)
  obtain ⟨-, -, -, -, ⟨hmem, -⟩, -⟩ := hdev
  refine ⟨_, step_powerOn hin hp, rfl, rfl, rfl, rfl, hmem, ?_, fun hspec => ?_⟩
  · split
    · rename_i hv
      exact powerOn_dev _ _ _ _ (derivedAtReset_of_nvcfg _ _ hv)
    · rename_i hv
      exact powerOn_dev _ _ _ _ (derivedAtReset_of_ne _ _ hv)
  · show s.config.nvcfgInit = 0x8FFF#16 ∧ (s.config.derived p.cap s.config.nvcfgInit).vcfg = 0x8B#8 ∧
      (s.config.derived p.cap s.config.nvcfgInit).evcfg = 0xDF#8 ∧ (s.config.derived p.cap s.config.nvcfgInit).a4b = false ∧
      (s.config.derived p.cap s.config.nvcfgInit).ear = 0x00#8
    rw [hspec]
    exact ⟨rfl, rfl, rfl, rfl, rfl⟩

/-- Settles O56. -/
theorem resetIsPowerOnOfTheResetPart : Obligations.ResetIsPowerOnOfTheResetPart := by
  intro s rest hspec hin
  rw [step_powerOn hin (by decide)]
  obtain ⟨config, part, dev, inputs, out⟩ := s
  obtain rfl : config = Config.spec := hspec
  rfl

/-- Settles O57. -/
theorem snapshotRestores : Obligations.SnapshotRestores := by
  intro s rest hinv hin
  obtain ⟨-, -, hcollector, hresponse, hwait, hcur, hstorage, -⟩ := hinv
  refine ⟨{ part := s.part, dev := { s.dev with dirty := none } }, ?_, fun u rest' hconfig hpart hin' => ?_⟩
  · exact (step_waiting hin).trans (snapshot_eq (s.accept rest))
  · have hblob : Blob.Acceptable u.config u.part { part := s.part, dev := { s.dev with dirty := none } } := by
      rw [hconfig, hpart]
      exact ⟨rfl, ⟨hcollector, hresponse, hwait, hcur, hstorage, fun q hq => by cases hq⟩, rfl⟩
    rw [step_waiting hin']
    exact if_pos hblob

end Sys2Proof.Machine
end
